-- ==== Sys2Proof/Word.lean ====
section
/-! DEFINITION. The byte, the one word of this hardware (00_scope.md R9, R13; 93_implementation_defined.md G5). -/

namespace Sys2Proof

/-- A byte: 8 bits (R9). Offsets, lengths and the cursor are natural numbers and never wrap (R9, R13). -/
abbrev Byte := BitVec 8

end Sys2Proof
end

