-- ==== Sys2Proof/Config.lean ====
section
/-! DEFINITION. Constants and parameters of the framer (00_scope.md R6 to R8), and the one free value:
what a buffer byte holds at power-on (10_state.md R36). -/

namespace Sys2Proof

/-- `TAG_EVENT` (R8, R81). -/
def tagEvent : Byte := 0x04
/-- `TAG_ACL` (R8, R81). -/
def tagAcl : Byte := 0x02
/-- `HDR_EVENT` (R8). -/
def hdrEvent : Nat := 2
/-- `HDR_ACL` (R8). -/
def hdrAcl : Nat := 4
/-- `HDR_SCO` (R8). -/
def hdrSco : Nat := 3

/-- The open parameters (R6, R8, 43_driver_interface.md R184; D4, D5, D7, D16), fixed at transport construction.
A machine carries its own; every statement holds for all of them. -/
structure Params where
  /-- `PB`, the number of pre-buffer bytes. -/
  pb : Nat
  /-- `MPS`, the largest header-plus-payload size, tag excluded. -/
  mps : Nat
  /-- `TAG_SCO`. -/
  tagSco : Byte
  /-- `SENT_CODE`, the event code of the synthetic sent event. -/
  sentCode : Byte
  /-- `ZERO_READ_COMPLETES`: does the driver complete a read of zero bytes? -/
  zeroReadCompletes : Bool
  deriving DecidableEq, Repr

/-- `CAP = PB + 1 + MPS` (R6). -/
def Params.cap (p : Params) : Nat := p.pb + 1 + p.mps

/-- The configurations a model admits: `MPS >= 258` (R7) and pairwise distinct tags (R8). -/
def Params.admitted (p : Params) : Bool :=
  decide (258 ≤ p.mps) && (decide (p.tagSco ≠ tagEvent) && decide (p.tagSco ≠ tagAcl))

/-- The instantiation of the spec's vectors (95_test_vectors.md), which the reset state carries.
DESIGN CHOICE and PRESUMED, unsafe: log entry 1. -/
def Params.reference : Params :=
  { pb := 8, mps := 260, tagSco := 0x03, sentCode := 0x6E, zeroReadCompletes := true }

/-- FREE VALUE: the byte at a physical offset of `BUF` at power-on, which the spec leaves unspecified (R36, U19).
It has no body, so no proof can use a value of it. Log entry 4. -/
opaque Config.powerOnByte : Nat → Byte

end Sys2Proof
end

