-- ==== Sys2Proof/Syntax.lean ====
section
/-! DEFINITION. The instructions of the framer: one constructor per row of spec/opcode_table.json, with the typed operands
of 30_encoding.md R90, and the three packet formats of the wire (R80 to R84). -/

namespace Sys2Proof

/-- `FRAME_STATE` (10_state.md R21). -/
inductive FrameState where
  | awaitingType
  | awaitingEventHeader
  | awaitingAclHeader
  | awaitingScoHeader
  | awaitingPayload
  deriving DecidableEq, Repr

/-- The driver's configuration record (10_state.md R28). The three types are abstract in the spec (D20): each field is an
uninterpreted number, which the core copies and never inspects (log entry 3). -/
structure DriverConfig where
  device : Nat
  baudrate : Nat
  flowcontrol : Nat
  deriving DecidableEq, Repr

/-- The operand of `INIT` (42_transport_facade.md R160): missing, of a wrong kind, or of the UART kind. -/
inductive InitConfig where
  | missing
  | wrongKind
  | uart (c : DriverConfig)
  deriving DecidableEq, Repr

/-- The instructions. The first four are the wire rows: the arrival of a packet's byte 0 (R93, R113; log entry 11).
The others are the nine stimuli, `RX_DONE` subdivided by frame state (R91); `rc` is the driver's answer (R11). -/
inductive Instr where
  /-- PKT_EVENT: the tag byte 0x04 arrives (R82, R113). -/
  | pktEvent
  /-- PKT_ACL: the tag byte 0x02 arrives (R83, R113). -/
  | pktAcl
  /-- PKT_SCO: the tag byte `TAG_SCO` arrives (R84, R113). -/
  | pktSco
  /-- PKT_INVALID: any other byte arrives as a tag (R86, R113). -/
  | pktInvalid (t : Byte)
  /-- INIT (R160). -/
  | initOp (cfg : InitConfig)
  /-- OPEN (R161). -/
  | openOp (rc : Int)
  /-- CLOSE (R162). -/
  | closeOp (rc : Int)
  /-- REGISTER_PACKET_HANDLER (R163): a handler capability, or none. -/
  | registerHandler (h : Option Nat)
  /-- CAN_SEND_NOW (R140). -/
  | canSendNow (t : Byte)
  /-- SEND_PACKET (R141): the tag, the physical offset of the payload, its length. -/
  | sendPacket (t : Byte) (p : Nat) (n : Nat)
  /-- SET_BAUDRATE (R164). -/
  | setBaudrate (r : Nat) (rc : Int)
  /-- RX_DONE.TYPE (R113). -/
  | rxDoneType (d : List Byte)
  /-- RX_DONE.EVT_HDR (R114). -/
  | rxDoneEvtHdr (d : List Byte)
  /-- RX_DONE.ACL_HDR (R115). -/
  | rxDoneAclHdr (d : List Byte)
  /-- RX_DONE.SCO_HDR (R116). -/
  | rxDoneScoHdr (d : List Byte)
  /-- RX_DONE.PAYLOAD (R117). -/
  | rxDonePayload (d : List Byte)
  /-- TX_DONE (R142). -/
  | txDone
  deriving DecidableEq, Repr

/-- A packet of the wire: the bytes the framer does not interpret, and the payload, whose length the header declares
(R82 to R84). -/
inductive Packet where
  | event (code : Byte) (payload : List Byte)
  | acl (h0 h1 : Byte) (payload : List Byte)
  | sco (h0 h1 : Byte) (payload : List Byte)
  deriving DecidableEq, Repr

end Sys2Proof
end

