-- ==== Sys2Proof/WellFormed.lean ====
section
/-! DEFINITION. Which instructions and packets are well formed: the limits the spec puts on an operand whatever the state. -/

namespace Sys2Proof

/-- The largest block a payload read asks for: `max(255, min(65535, MPS - 4))` (10_state.md R23). -/
def Params.maxPayload (p : Params) : Nat := max 255 (min 65535 (p.mps - 4))

/-- Operand limits: PKT_INVALID carries none of the three tags (30_encoding.md R86); a block has the size its frame state
asks for (R113 to R117, R23); SEND_PACKET's payload lies in `BUF` with its tag slot in the pre-buffer (41_send_gate.md R141 P3, P4). -/
def Instr.wellFormed (p : Params) : Instr → Bool
  | .pktInvalid t => decide (t ≠ tagEvent) && (decide (t ≠ tagAcl) && decide (t ≠ p.tagSco))
  | .sendPacket _ q n => decide (1 ≤ q ∧ q ≤ p.pb) && decide (n ≤ p.mps ∧ q + n ≤ p.cap)
  | .rxDoneType d => decide (d.length = 1)
  | .rxDoneEvtHdr d => decide (d.length = hdrEvent)
  | .rxDoneAclHdr d => decide (d.length = hdrAcl)
  | .rxDoneScoHdr d => decide (d.length = hdrSco)
  | .rxDonePayload d => decide (d.length ≤ p.maxPayload)
  | .pktEvent => true
  | .pktAcl => true
  | .pktSco => true
  | .initOp _ => true
  | .openOp _ => true
  | .closeOp _ => true
  | .registerHandler _ => true
  | .canSendNow _ => true
  | .setBaudrate _ _ => true
  | .txDone => true

/-- A packet's declared length fits its length field, and an ACL packet passes the bounds check (R82 to R84, R86 (b)). -/
def Packet.wellFormed (p : Params) : Packet → Bool
  | .event _ d => decide (d.length ≤ 255)
  | .acl _ _ d => decide (d.length ≤ 65535) && decide (hdrAcl + d.length ≤ p.mps)
  | .sco _ _ d => decide (d.length ≤ 255)

end Sys2Proof
end

