-- ==== Sys2Proof/Decode.lean ====
section
/-! DEFINITION. From what is presented at the block to an instruction, and back (30_encoding.md R80 to R93).
Two code spaces: a byte on the wire, decoded as a packet tag, and a 7-bit selection word at the command port with typed
operands beside it. -/

namespace Sys2Proof

/-! ### The wire: packet tags -/

/-- What a tag byte announces (R81, R86). -/
inductive TagKind where
  | event
  | acl
  | sco
  | invalid
  deriving DecidableEq, Repr

/-- The whole byte is compared (R81), in the order of R113. -/
def tagKind (p : Params) (b : Byte) : TagKind :=
  if b = tagEvent then .event else if b = tagAcl then .acl else if b = p.tagSco then .sco else .invalid

/-- The wire rows of the opcode table. -/
def decodeTag (p : Params) (b : Byte) : Instr :=
  match tagKind p b with
  | .event => .pktEvent
  | .acl => .pktAcl
  | .sco => .pktSco
  | .invalid => .pktInvalid b

/-! ### The command port: selection words -/

/-- The typed operands carried beside the operation code (R90). -/
inductive Operand where
  | nothing
  | answer (rc : Int)
  | config (c : InitConfig)
  | handler (h : Option Nat)
  | tag (t : Byte)
  | send (t : Byte) (p : Nat) (n : Nat)
  | rate (r : Nat) (rc : Int)
  | block (d : List Byte)
  deriving DecidableEq, Repr

/-- The thirteen stimulus rows. -/
inductive StimulusKind where
  | init
  | openLink
  | closeLink
  | registerHandler
  | canSendNow
  | sendPacket
  | setBaudrate
  | rxType
  | rxEvtHdr
  | rxAclHdr
  | rxScoHdr
  | rxPayload
  | txDone
  deriving DecidableEq, Repr

/-- One stimulus row of the opcode table: the selection word matches when its masked bits equal the pattern. -/
structure SelRow where
  kind : StimulusKind
  pattern : BitVec 7
  mask : BitVec 7
  deriving DecidableEq, Repr

/-- The stimulus rows with the table's match and mask (R90, R91). -/
def selTable : List SelRow :=
  [ ⟨.init, 0x00, 0x78⟩, ⟨.openLink, 0x08, 0x78⟩, ⟨.closeLink, 0x10, 0x78⟩,
    ⟨.registerHandler, 0x18, 0x78⟩, ⟨.canSendNow, 0x20, 0x78⟩, ⟨.sendPacket, 0x28, 0x78⟩,
    ⟨.setBaudrate, 0x30, 0x78⟩, ⟨.rxType, 0x40, 0x7F⟩, ⟨.rxEvtHdr, 0x41, 0x7F⟩,
    ⟨.rxAclHdr, 0x42, 0x7F⟩, ⟨.rxScoHdr, 0x43, 0x7F⟩, ⟨.rxPayload, 0x44, 0x7F⟩,
    ⟨.txDone, 0x48, 0x78⟩ ]

/-- The row a selection word selects, if any. -/
def selectKind (sel : BitVec 7) : Option StimulusKind :=
  (selTable.find? (fun r => sel &&& r.mask == r.pattern)).map SelRow.kind

/-- The pattern of a row. -/
def StimulusKind.word : StimulusKind → BitVec 7
  | .init => 0x00
  | .openLink => 0x08
  | .closeLink => 0x10
  | .registerHandler => 0x18
  | .canSendNow => 0x20
  | .sendPacket => 0x28
  | .setBaudrate => 0x30
  | .rxType => 0x40
  | .rxEvtHdr => 0x41
  | .rxAclHdr => 0x42
  | .rxScoHdr => 0x43
  | .rxPayload => 0x44
  | .txDone => 0x48

/-- Why a decoder refuses a selection word. Each is raised by `decode` and is safe: the spec assigns such a word nothing. -/
inductive DecodeError where
  /-- `OP` is 7 or 10 to 15 (R90). -/
  | unassignedOperation (op : BitVec 4)
  /-- `RX_DONE` with `FS` 5, 6 or 7 (R92). -/
  | unassignedFrameState (fs : BitVec 3)
  /-- The operand beside the operation code is not of that operation's type (R90). -/
  | operandMismatch (k : StimulusKind)
  deriving DecidableEq, Repr

/-- `OP`, bits 6 to 3 of the selection word (R91). -/
def selOp (sel : BitVec 7) : BitVec 4 := sel.extractLsb' 3 4

/-- `FS`, bits 2 to 0 of the selection word (R91). -/
def selFs (sel : BitVec 7) : BitVec 3 := sel.extractLsb' 0 3

/-- `SEL = 8 * OP + FS` (R91). -/
def selWord (op : BitVec 4) (fs : BitVec 3) : BitVec 7 := op ++ fs

/-- The frame-state codes (R92). -/
def FrameState.code : FrameState → BitVec 3
  | .awaitingType => 0
  | .awaitingEventHeader => 1
  | .awaitingAclHeader => 2
  | .awaitingScoHeader => 3
  | .awaitingPayload => 4

/-- The frame state of a code; 5, 6 and 7 are none (R92). -/
def FrameState.ofCode (c : BitVec 3) : Option FrameState :=
  if c = 0 then some .awaitingType
  else if c = 1 then some .awaitingEventHeader
  else if c = 2 then some .awaitingAclHeader
  else if c = 3 then some .awaitingScoHeader
  else if c = 4 then some .awaitingPayload
  else none

/-- The instruction of a row with its operand, if the operand has the row's type. -/
def build : StimulusKind → Operand → Option Instr
  | .init, .config c => some (.initOp c)
  | .openLink, .answer rc => some (.openOp rc)
  | .closeLink, .answer rc => some (.closeOp rc)
  | .registerHandler, .handler h => some (.registerHandler h)
  | .canSendNow, .tag t => some (.canSendNow t)
  | .sendPacket, .send t p n => some (.sendPacket t p n)
  | .setBaudrate, .rate r rc => some (.setBaudrate r rc)
  | .rxType, .block d => some (.rxDoneType d)
  | .rxEvtHdr, .block d => some (.rxDoneEvtHdr d)
  | .rxAclHdr, .block d => some (.rxDoneAclHdr d)
  | .rxScoHdr, .block d => some (.rxDoneScoHdr d)
  | .rxPayload, .block d => some (.rxDonePayload d)
  | .txDone, .nothing => some .txDone
  | _, _ => none

/-! ### Decode and encode -/

/-- What is presented to the block: a byte of the wire in tag position, or a selection word with its operand. -/
inductive Code where
  | wire (b : Byte)
  | port (sel : BitVec 7) (x : Operand)
  deriving DecidableEq, Repr

/-- The decoder, total, rejecting by name. -/
def decode (p : Params) : Code → Except DecodeError Instr
  | .wire b => .ok (decodeTag p b)
  | .port sel x =>
    match selectKind sel with
    | none =>
      if selOp sel = 8 then .error (.unassignedFrameState (selFs sel))
      else .error (.unassignedOperation (selOp sel))
    | some k =>
      match build k x with
      | some i => .ok i
      | none => .error (.operandMismatch k)

/-- The encoder. Where the table ignores `FS` it writes 0. -/
def encode (p : Params) : Instr → Code
  | .pktEvent => .wire tagEvent
  | .pktAcl => .wire tagAcl
  | .pktSco => .wire p.tagSco
  | .pktInvalid t => .wire t
  | .initOp c => .port StimulusKind.init.word (.config c)
  | .openOp rc => .port StimulusKind.openLink.word (.answer rc)
  | .closeOp rc => .port StimulusKind.closeLink.word (.answer rc)
  | .registerHandler h => .port StimulusKind.registerHandler.word (.handler h)
  | .canSendNow t => .port StimulusKind.canSendNow.word (.tag t)
  | .sendPacket t q n => .port StimulusKind.sendPacket.word (.send t q n)
  | .setBaudrate r rc => .port StimulusKind.setBaudrate.word (.rate r rc)
  | .rxDoneType d => .port StimulusKind.rxType.word (.block d)
  | .rxDoneEvtHdr d => .port StimulusKind.rxEvtHdr.word (.block d)
  | .rxDoneAclHdr d => .port StimulusKind.rxAclHdr.word (.block d)
  | .rxDoneScoHdr d => .port StimulusKind.rxScoHdr.word (.block d)
  | .rxDonePayload d => .port StimulusKind.rxPayload.word (.block d)
  | .txDone => .port StimulusKind.txDone.word .nothing

/-! ### Whole packets -/

/-- Low byte of a 16-bit length: the first on the wire (R83). -/
def lenLow (n : Nat) : Byte := BitVec.ofNat 8 n

/-- High byte of a 16-bit length (R83). -/
def lenHigh (n : Nat) : Byte := BitVec.ofNat 8 (n / 256)

/-- Little-endian length assembly: `lo + 256 * hi` (R85). -/
def le16 (lo hi : Byte) : Nat := lo.toNat + 256 * hi.toNat

/-- Byte 0 of a packet. -/
def Packet.tag (p : Params) : Packet → Byte
  | .event _ _ => tagEvent
  | .acl _ _ _ => tagAcl
  | .sco _ _ _ => p.tagSco

/-- Header and payload: the bytes of a packet after its tag, which the handler is given (R82 to R85). -/
def Packet.body : Packet → List Byte
  | .event code d => code :: lenLow d.length :: d
  | .acl h0 h1 d => h0 :: h1 :: lenLow d.length :: lenHigh d.length :: d
  | .sco h0 h1 d => h0 :: h1 :: lenLow d.length :: d

/-- The bytes of a packet on the wire (R80). -/
def Packet.bytes (p : Params) (k : Packet) : List Byte := k.tag p :: k.body

/-- Why a byte string does not begin with a packet. -/
inductive ParseError where
  /-- The bytes end before the packet does. -/
  | incomplete
  /-- Byte 0 is no tag (R86 (a)). -/
  | invalidTypeTag (t : Byte)
  /-- The ACL header declares more than the buffer holds (R86 (b)). -/
  | aclLengthExceedsCapacity (len : Nat)
  deriving DecidableEq, Repr

/-- Split a payload of the declared length off the front. -/
def takePayload (len : Nat) (d : List Byte) (mk : List Byte → Packet) : Except ParseError (Packet × List Byte) :=
  if len ≤ d.length then .ok (mk (d.take len), d.drop len) else .error .incomplete

/-- The packet a byte string begins with, and the rest of it (R80 to R86). -/
def parsePacket (p : Params) : List Byte → Except ParseError (Packet × List Byte)
  | [] => .error .incomplete
  | t :: d =>
    match tagKind p t with
    | .event =>
      match d with
      | code :: len :: rest => takePayload len.toNat rest (.event code)
      | _ => .error .incomplete
    | .acl =>
      match d with
      | h0 :: h1 :: lo :: hi :: rest =>
        if hdrAcl + le16 lo hi > p.mps then .error (.aclLengthExceedsCapacity (le16 lo hi))
        else takePayload (le16 lo hi) rest (.acl h0 h1)
      | _ => .error .incomplete
    | .sco =>
      match d with
      | h0 :: h1 :: len :: rest => takePayload len.toNat rest (.sco h0 h1)
      | _ => .error .incomplete
    | .invalid => .error (.invalidTypeTag t)

/-! ### Table words -/

/-- The operand a bare selection word stands for: the opcode table gives operands no bits (log entry 8). -/
def StimulusKind.sampleOperand : StimulusKind → Operand
  | .init => .config (.uart ⟨0, 0, 0⟩)
  | .openLink => .answer 0
  | .closeLink => .answer 0
  | .registerHandler => .handler none
  | .canSendNow => .tag 0
  | .sendPacket => .send 0 1 0
  | .setBaudrate => .rate 0 0
  | .rxType => .block [0]
  | .rxEvtHdr => .block [0, 0]
  | .rxAclHdr => .block [0, 0, 0, 0]
  | .rxScoHdr => .block [0, 0, 0]
  | .rxPayload => .block [0]
  | .txDone => .nothing

/-- A word of the opcode table as what is presented: a 7-bit word is a selection word; of 8-bit words the three tags and
every word that selects no stimulus are wire bytes, the others selection words (the table's two code spaces share the
values 0 to 127: log entry 8). -/
def tableCode (nbits w : Nat) : Option Code :=
  if nbits = 7 ∧ w < 128 then
    (selectKind (BitVec.ofNat 7 w)).map (fun k => .port (BitVec.ofNat 7 w) k.sampleOperand)
  else if nbits = 8 ∧ w < 256 then
    match tagKind Params.reference (BitVec.ofNat 8 w) with
    | .invalid =>
      if w < 128 then
        match selectKind (BitVec.ofNat 7 w) with
        | some k => some (.port (BitVec.ofNat 7 w) k.sampleOperand)
        | none => some (.wire (BitVec.ofNat 8 w))
      else some (.wire (BitVec.ofNat 8 w))
    | _ => some (.wire (BitVec.ofNat 8 w))
  else none

/-- The instruction the decoder reads from a word of the opcode table. -/
def decodeTableWord (nbits w : Nat) : Option Instr :=
  match tableCode nbits w with
  | none => none
  | some c =>
    match decode Params.reference c with
    | .ok i => some i
    | .error _ => none

end Sys2Proof
end

