-- ==== Sys2Proof/Machine/State.lean ====
section
/-! DEFINITION. The state of the framer as plain data (10_state.md R20 to R39), the outputs it records, the reasons a step
can stop, and the state after power-on (R36). -/

namespace Sys2Proof.Machine

/-- `BUF` (10_state.md R26): the bytes something has written, as (physical offset, byte) pairs with strictly rising offsets.
An offset that is not listed has never been written: its byte is the unspecified power-on byte (R36). -/
abbrev Memory := List Host.Cell

/-- The canonical form: strictly rising offsets. An unlisted offset holds no written value, so no entry can equal it. -/
def Memory.wf (m : Memory) : Bool := decide ((m.map Prod.fst).Pairwise (· < ·))

/-- `HANDLER` (R27): the no-op sink, or a registered capability, an uninterpreted number (log entry 12). -/
inductive Handler where
  | nopSink
  | registered (id : Nat)
  deriving DecidableEq, Repr

/-- `RXREQ = Some(pos, n)` (R31). -/
structure ReadRequest where
  pos : Nat
  n : Nat
  deriving DecidableEq, Repr

/-- `TXREQ = Some(addr, n, bytes)` (R32). -/
structure WriteRequest where
  addr : Nat
  n : Nat
  bytes : List Byte
  deriving DecidableEq, Repr

/-- The causes of a log record with what each records (60_exceptions.md R202). -/
inductive Cause where
  | invalidTypeTag (t : Byte)
  | aclLengthExceedsCapacity (len : Nat)
  | configError
  deriving DecidableEq, Repr

/-- What a dispatch refers to (40_receive_framer.md R118): a physical offset into `BUF` with the bytes there at that moment
(D25), or the constant bytes of the sent event. -/
inductive DataRef where
  | inBuf (off : Nat) (bytes : List Byte)
  | const (bytes : List Byte)
  deriving DecidableEq, Repr

/-- The outputs (00_scope.md R12): requests to the driver, calls of the handler, log records, return values. -/
inductive Output where
  | readReq (pos n : Nat)
  | writeReq (addr n : Nat)
  | drvConfigure (c : DriverConfig)
  | drvOpen
  | drvClose
  | drvSetBaudrate (r : Nat)
  | dispatch (target : Handler) (type : Byte) (data : DataRef) (len : Nat)
  | log (c : Cause)
  | returnInt (v : Int)
  | returnBool (b : Bool)
  deriving DecidableEq, Repr

/-- What the outside presents to the block (00_scope.md R5, R11; 30_encoding.md R94; 60_exceptions.md R208). -/
inductive Input where
  /-- A stimulus at the command port: `OP` and its operand. -/
  | port (op : BitVec 4) (x : Operand)
  /-- The same, called by the handler that the last dispatch called; placed after that step (R208). -/
  | fromHandler (op : BitVec 4) (x : Operand)
  /-- A byte of the link that completes the outstanding read of one tag byte (R113). -/
  | wire (b : Byte)
  /-- `STORE @a: d`, the consumer writing bytes into `BUF` (R94). -/
  | store (a : Nat) (d : List Byte)
  deriving DecidableEq, Repr

/-- The state. The first eleven fields are the spec's (R20), then its bookkeeping (R39), its parameters (R6) and the
model's own two fields. -/
structure State where
  /-- `FRAME_STATE` (R21). -/
  frameState : FrameState
  /-- `READ_POS` (R22). -/
  readPos : Nat
  /-- `BYTES_TO_READ` (R23). -/
  bytesToRead : Nat
  /-- `WRITE_GATE` (R25). -/
  writeGate : Bool
  /-- `BUF` (R26). -/
  buf : Memory
  /-- `HANDLER` (R27). -/
  handler : Handler
  /-- `DRVCFG` (R28). -/
  drvCfg : DriverConfig
  /-- `CONFIGURED` (R29). -/
  configured : Bool
  /-- `OPENED` (R30). -/
  opened : Bool
  /-- `RXREQ` (R31). -/
  rxReq : Option ReadRequest
  /-- `TXREQ` (R32). -/
  txReq : Option WriteRequest
  /-- The event history, oldest first (R39). -/
  history : List Output
  /-- The parameters, fixed at transport construction (R6); no step writes them. -/
  params : Params
  /-- The model's own: the stimuli still to come, next first, each with the oracle's values (R5). -/
  inputs : List Input
  /-- The model's own: the last stimulus called a registered handler, whose calls come next (R208). -/
  handlerWindow : Bool
  deriving DecidableEq, Repr

/-- Why the machine has no move. The spec's own errors are not faults (60_exceptions.md R210). All are safe: the model stops. -/
inductive Fault where
  /-- A driver event while `OPENED` is false (R165, R187). Raised by the RX_DONE, wire and TX_DONE meanings. Safe. -/
  | driverEventWhileClosed
  /-- RX_DONE with no read outstanding (R112, R183), or FEED with none (R95, log entry 15). Raised by the RX_DONE meanings and `feed`. Safe. -/
  | noReadOutstanding
  /-- RX_DONE whose block is not of the requested size (R112, R183). Raised by the RX_DONE meanings. Safe. -/
  | blockLengthMismatch
  /-- RX_DONE for zero bytes with `ZERO_READ_COMPLETES = false` (R184). Raised by the RX_DONE meanings. Safe. -/
  | zeroReadNeverCompletes
  /-- An RX_DONE row run in another frame state than its own (R91, R112). Raised by the RX_DONE meanings. Safe. -/
  | frameStateMismatch
  /-- A wire row while the read of one tag byte is not the outstanding one (R113). Raised by the wire meanings. Safe. -/
  | tagReadNotOutstanding
  /-- TX_DONE with no write outstanding (R142, R186). Raised by TX_DONE. Safe. -/
  | noWriteOutstanding
  /-- An access outside `0 .. CAP-1`, which has no meaning (00_scope.md R14). Raised by the RX_DONE meanings. Safe. -/
  | bufferRange
  /-- A call from inside a handler when no handler was called (R208). Raised on fetch. Safe. -/
  | noHandlerRunning
  /-- A driver event while a consumer call is in progress (43_driver_interface.md R185). Raised on fetch. Safe. -/
  | driverEventDuringCall
  deriving DecidableEq, Repr

/-- Why the model gives a stimulus no meaning (00_scope.md R15, 60_exceptions.md R201). All are safe: nothing is proved of the run. -/
inductive Refusal where
  /-- An instruction without a meaning yet. Raised by exec's arms only. Safe. -/
  | notModelled (mnemonic : String)
  /-- The parameters break R7 or R8. Raised by every meaning. Safe. -/
  | configurationNotAdmitted
  /-- The selection word or its operand selects nothing (R90, R92). Raised on fetch. Safe. -/
  | undecodable (e : DecodeError)
  /-- INIT while `OPENED` (R160). Raised by INIT. Safe. -/
  | initWhileOpen
  /-- OPEN before a good INIT (R161). Raised by OPEN. Safe. -/
  | openUnconfigured
  /-- OPEN while `OPENED` (R161). Raised by OPEN. Safe. -/
  | openWhileOpen
  /-- CLOSE while not `OPENED` (R162). Raised by CLOSE. Safe. -/
  | closeWhileClosed
  /-- SET_BAUDRATE before a good INIT (R164). Raised by SET_BAUDRATE. Safe. -/
  | setBaudrateUnconfigured
  /-- SEND_PACKET while `WRITE_GATE` is true (R141 P1, R233). Raised by SEND_PACKET. Safe. -/
  | sendWhileTransmitting
  /-- SEND_PACKET while not `OPENED` (R141 P2). Raised by SEND_PACKET. Safe. -/
  | sendWhileClosed
  /-- SEND_PACKET whose tag slot is no pre-buffer byte (R141 P3). Raised by SEND_PACKET. Safe. -/
  | sendTagSlotOutsidePreBuffer
  /-- SEND_PACKET whose payload is longer than `MPS` or leaves `BUF` (R141 P4). Raised by SEND_PACKET. Safe. -/
  | sendPayloadOutsideBuffer
  /-- SEND_PACKET whose TX window meets the RX window (R141 P5, R236). Raised by SEND_PACKET. Safe. -/
  | sendOverlapsReceive
  /-- INIT, OPEN, CLOSE or SET_BAUDRATE from inside the handler (R208). Raised on fetch. Safe. -/
  | lifecycleCallFromHandler
  /-- A consumer STORE outside `BUF` (R14). Raised by the consumer's store. Safe. -/
  | storeOutsideBuffer
  /-- A consumer STORE into the RX window (R238). Raised by the consumer's store. Safe. -/
  | storeInRxWindow
  /-- A consumer STORE into the TX window (R235). Raised by the consumer's store. Safe. -/
  | storeInTxWindow
  /-- A FEED whose bytes end inside a block: the script is ill-formed (R95). Raised by `feed`. Safe. -/
  | feedEndsInsideBlock
  deriving DecidableEq, Repr

/-- State after power-on (R36). `READ_POS`, `BYTES_TO_READ` and `DRVCFG` are unspecified there: 0 is the model's choice
(DESIGN CHOICE, unsafe: log entries 2 and 3). The parameters are those of the spec's vectors (log entry 1). -/
def State.reset : State :=
  { frameState := .awaitingType
    readPos := 0
    bytesToRead := 0
    writeGate := false
    buf := []
    handler := .nopSink
    drvCfg := ⟨0, 0, 0⟩
    configured := false
    opened := false
    rxReq := none
    txReq := none
    history := []
    params := Params.reference
    inputs := []
    handlerWindow := false }

/-- The outcome of a step of this machine. -/
abbrev Result := Host.Outcome State Fault Refusal

end Sys2Proof.Machine
end

