-- ==== Sys2Proof/Machine/Flags.lean ====
section
/-! DEFINITION. The block's only flag, `WRITE_GATE` (10_state.md R25, R33): its read, its set and its clear. -/

namespace Sys2Proof.Machine

/-- What CAN_SEND_NOW answers: true iff `WRITE_GATE` is false (41_send_gate.md R140). -/
def gateOpen (s : State) : Bool := !s.writeGate

/-- SEND_PACKET sets the gate (R141). -/
def setGate (s : State) : State := { s with writeGate := true }

/-- TX_DONE, CLOSE and a successful OPEN clear it (R142, R161, R162). -/
def clearGate (s : State) : State := { s with writeGate := false }

end Sys2Proof.Machine
end

