-- ==== Sys2Proof/Machine/Ops.lean ====
section
/-! DEFINITION. The named operations over the buffer and the registers: the access primitives (00_scope.md R14), the
micro-operations RESET_FRAMER, ISSUE_READ and DISPATCH (40_receive_framer.md R110, R111, R118), the entry of an error
(60_exceptions.md R204), and the common frame of RX_DONE (R112). An error has no return operation (R207). -/

namespace Sys2Proof.Machine

/-! ### The buffer -/

/-- The byte written at an offset, if one was. -/
def Memory.read : Memory → Nat → Option Byte
  | [], _ => none
  | (b, v) :: m, a => if a = b then some v else Memory.read m a

/-- Store one byte, keeping the offsets strictly rising. -/
def Memory.set : Memory → Nat → Byte → Memory
  | [], a, v => [(a, v)]
  | (b, w) :: m, a, v =>
    if a < b then (a, v) :: (b, w) :: m
    else if a = b then (a, v) :: m
    else (b, w) :: Memory.set m a v

/-- Store a byte string at increasing offsets (R53). -/
def Memory.fill : Memory → Nat → List Byte → Memory
  | m, _, [] => m
  | m, a, v :: d => Memory.fill (Memory.set m a v) (a + 1) d

/-- `BUF[a]` (R14): the byte written there, or the unspecified power-on byte (R36). -/
def State.byteAt (s : State) (a : Nat) : Byte :=
  (Memory.read s.buf a).getD (Config.powerOnByte a)

/-- `BUF[a .. a+n-1]`. -/
def State.bytesAt (s : State) (a : Nat) : Nat → List Byte
  | 0 => []
  | n + 1 => s.byteAt a :: State.bytesAt s (a + 1) n

/-- The physical offset of logical offset `i` (20_memory.md R51). -/
def State.phys (s : State) (i : Nat) : Nat := s.params.pb + i

/-- `L[i] = BUF[PB + i]` (R14, R51). -/
def State.logical (s : State) (i : Nat) : Byte := s.byteAt (s.phys i)

/-- `MemRead(a, 2) = BUF[a] + 256 * BUF[a + 1]` (R14). -/
def State.memRead2 (s : State) (a : Nat) : Nat := le16 (s.byteAt a) (s.byteAt (a + 1))

/-- `MemWrite(a, 1, v)` (R14). -/
def memWrite (a : Nat) (v : Byte) (s : State) : State := { s with buf := Memory.set s.buf a v }

/-- `MemFill(a, d)` (R14). -/
def memFill (a : Nat) (d : List Byte) (s : State) : State := { s with buf := Memory.fill s.buf a d }

/-! ### Outputs and micro-operations -/

/-- `emit` (R15). -/
def emit (o : Output) (s : State) : State := { s with history := s.history ++ [o] }

/-- `RESET_FRAMER` (R110). -/
def resetFramer (s : State) : State :=
  { s with frameState := .awaitingType, readPos := 0, bytesToRead := 1 }

/-- `ISSUE_READ` (R111): unconditional, no bounds check, no skipping of zero bytes. -/
def issueRead (s : State) : State :=
  emit (.readReq s.readPos s.bytesToRead) { s with rxReq := some ⟨s.readPos, s.bytesToRead⟩ }

/-- TAKING AN ERROR, causes E1 and E2 (60_exceptions.md R204): log, then reset the framer; nothing is saved and control goes
nowhere else. The rest of the step goes on. -/
def raiseCause (c : Cause) (s : State) : State := resetFramer (emit (.log c) s)

/-- Is a handler registered? -/
def Handler.isRegistered : Handler → Bool
  | .nopSink => false
  | .registered _ => true

/-- `DISPATCH` (R118): the call of the current handler. A registered handler may call back (R208). -/
def dispatch (type : Byte) (data : DataRef) (len : Nat) (s : State) : State :=
  { emit (.dispatch s.handler type data len) s with handlerWindow := s.handler.isRegistered }

/-- A configuration that breaks R7 or R8 is refused. -/
def ifAdmitted (s : State) (k : Result) : Result :=
  if s.params.admitted then k else .refused .configurationNotAdmitted

/-! ### The common frame of RX_DONE -/

/-- Precondition and step 1 of RX_DONE (R112): the block is stored, the request consumed, the cursor advanced by the core's
own `BYTES_TO_READ`. -/
def acceptBlock (fs : FrameState) (d : List Byte) (s : State) : Except Fault State :=
  if s.opened = false then .error .driverEventWhileClosed
  else match s.rxReq with
    | none => .error .noReadOutstanding
    | some q =>
      if d.length ≠ q.n then .error .blockLengthMismatch
      else if q.n = 0 ∧ s.params.zeroReadCompletes = false then .error .zeroReadNeverCompletes
      else if s.frameState ≠ fs then .error .frameStateMismatch
      else if s.phys q.pos + q.n > s.params.cap then .error .bufferRange
      else .ok { memFill (s.phys q.pos) d s with rxReq := none, readPos := s.readPos + s.bytesToRead }

/-- RX_DONE(d) in one frame state (R112): the block, then the state's case, then ISSUE_READ after every case. -/
def rxDone (fs : FrameState) (d : List Byte) (body : State → Except Fault State) (s : State) : Result :=
  ifAdmitted s <|
    match acceptBlock fs d s with
    | .error f => .fault f
    | .ok s1 =>
      match body s1 with
      | .error f => .fault f
      | .ok s2 => .next (issueRead s2)

/-- Latch the size of the next block and the next frame state (R113 to R116). -/
def expect (n : Nat) (fs : FrameState) (s : State) : State := { s with bytesToRead := n, frameState := fs }

end Sys2Proof.Machine
end

