-- ==== Sys2Proof/Machine/Operands.lean ====
section
/-! DEFINITION. Operand forms: the length fields of the three headers (30_encoding.md R85), the RX and TX windows
(20_memory.md R60, R61), and the lifecycle phase (42_transport_facade.md R165). -/

namespace Sys2Proof.Machine

/-- Event: `Len = L[2]` (R85, R114). -/
def eventLen (s : State) : Nat := (s.logical 2).toNat

/-- ACL: `Len = MemRead(PB + 3, 2) = L[3] + 256 * L[4]` (R85, R115). -/
def aclLen (s : State) : Nat := s.memRead2 (s.phys 3)

/-- SCO: `Len = L[3]` (R85, R116). -/
def scoLen (s : State) : Nat := (s.logical 3).toNat

/-- The bounds checker (20_memory.md R58): does an ACL payload of this length fit? On natural numbers, no wrap. -/
def aclFits (s : State) (len : Nat) : Bool := decide (hdrAcl + len ≤ s.params.mps)

/-- A range of physical offsets, `lo` to `hi - 1`. -/
structure Window where
  lo : Nat
  hi : Nat
  deriving DecidableEq, Repr

/-- Two ranges share an offset. -/
def Window.meets (v w : Window) : Bool := decide (max v.lo w.lo < min v.hi w.hi)

/-- The RX window (R60): empty while not open. -/
def rxWindow (s : State) : Window :=
  if s.opened then ⟨s.params.pb, s.params.pb + s.readPos + s.bytesToRead⟩ else ⟨0, 0⟩

/-- The TX window (R61): empty while no transmit is in flight. -/
def txWindow (s : State) : Window :=
  match s.txReq with
  | some q => ⟨q.addr, q.addr + q.n⟩
  | none => ⟨0, 0⟩

/-- The window a send of `n` bytes at `p` would occupy, tag slot included: `[p - 1, p + n)` (R61, R141). -/
def sendWindow (p n : Nat) : Window := ⟨p - 1, p + n⟩

/-- The lifecycle phases (R165). -/
inductive Phase where
  | unconfigured
  | configured
  | opened
  deriving DecidableEq, Repr

/-- The phase of a state (R165). -/
def State.phase (s : State) : Phase :=
  if s.opened then .opened else if s.configured then .configured else .unconfigured

end Sys2Proof.Machine
end

