-- ==== Sys2Proof/Machine/Facade.lean ====
section
/-! DEFINITION. The Transport Facade: INIT, OPEN, CLOSE, REGISTER_PACKET_HANDLER, SET_BAUDRATE
(42_transport_facade.md R160 to R164). -/

namespace Sys2Proof.Machine

/-- INIT (R160). A bad configuration is logged (cause E3) and nothing else changes. -/
def execInit (cfg : InitConfig) (s : State) : Result :=
  ifAdmitted s <|
    if s.opened then .refused .initWhileOpen
    else match cfg with
      | .missing => .next (emit (.log .configError) s)
      | .wrongKind => .next (emit (.log .configError) s)
      | .uart c => .next (emit (.drvConfigure c) { s with drvCfg := c, configured := true })

/-- OPEN (R161). A failed open changes no state element. -/
def execOpen (rc : Int) (s : State) : Result :=
  ifAdmitted s <|
    if s.opened then .refused .openWhileOpen
    else if s.configured = false then .refused .openUnconfigured
    else if rc ≠ 0 then .next (emit (.returnInt rc) (emit .drvOpen s))
    else .next (emit (.returnInt 0)
      (issueRead (resetFramer (clearGate { emit .drvOpen s with opened := true }))))

/-- CLOSE (R162): the effects happen whatever the driver answers. -/
def execClose (rc : Int) (s : State) : Result :=
  ifAdmitted s <|
    if s.opened = false then .refused .closeWhileClosed
    else .next (emit (.returnInt rc)
      { clearGate (emit .drvClose s) with opened := false, rxReq := none, txReq := none })

/-- REGISTER_PACKET_HANDLER (R163): none restores the no-op sink. -/
def execRegisterHandler (h : Option Nat) (s : State) : Result :=
  ifAdmitted s <|
    .next { s with handler := match h with | none => .nopSink | some id => .registered id }

/-- SET_BAUDRATE (R164): delegated to the driver; no state element of the core changes. -/
def execSetBaudrate (r : Nat) (rc : Int) (s : State) : Result :=
  ifAdmitted s <|
    if s.configured = false then .refused .setBaudrateUnconfigured
    else .next (emit (.returnInt rc) (emit (.drvSetBaudrate r) s))

end Sys2Proof.Machine
end

