-- ==== Sys2Proof/Machine/Receive.lean ====
section
/-! DEFINITION. The Receive Framer: RX_DONE in each of the five frame states (40_receive_framer.md R113 to R117). -/

namespace Sys2Proof.Machine

/-- The case of R113 on the tag byte at `L[0]`, read from the buffer. -/
def typeCase (s : State) : State :=
  match tagKind s.params (s.logical 0) with
  | .event => expect hdrEvent .awaitingEventHeader s
  | .acl => expect hdrAcl .awaitingAclHeader s
  | .sco => expect hdrSco .awaitingScoHeader s
  | .invalid => raiseCause (.invalidTypeTag (s.logical 0)) s

/-- RX_DONE.TYPE (R113). -/
def execRxDoneType (d : List Byte) (s : State) : Result :=
  rxDone .awaitingType d (fun s1 => .ok (typeCase s1)) s

/-- RX_DONE.EVT_HDR (R114): no bounds check (R59). -/
def execRxDoneEvtHdr (d : List Byte) (s : State) : Result :=
  rxDone .awaitingEventHeader d (fun s1 => .ok (expect (eventLen s1) .awaitingPayload s1)) s

/-- The case of R115: the one bounds check. -/
def aclCase (s : State) : State :=
  if aclFits s (aclLen s) then expect (aclLen s) .awaitingPayload s
  else raiseCause (.aclLengthExceedsCapacity (aclLen s)) s

/-- RX_DONE.ACL_HDR (R115). -/
def execRxDoneAclHdr (d : List Byte) (s : State) : Result :=
  rxDone .awaitingAclHeader d (fun s1 => .ok (aclCase s1)) s

/-- RX_DONE.SCO_HDR (R116): no bounds check (R59). -/
def execRxDoneScoHdr (d : List Byte) (s : State) : Result :=
  rxDone .awaitingScoHeader d (fun s1 => .ok (expect (scoLen s1) .awaitingPayload s1)) s

/-- The case of R117: dispatch `L[1 .. READ_POS-1]` with the tag read again from `L[0]` (R66), then reset the framer.
A cursor past the buffer has no meaning (R14); R24 rules it out of every reachable state. -/
def payloadCase (s : State) : Except Fault State :=
  if s.readPos > 1 + s.params.mps then .error .bufferRange
  else .ok (resetFramer
    (dispatch (s.logical 0) (.inBuf (s.phys 1) (s.bytesAt (s.phys 1) (s.readPos - 1))) (s.readPos - 1) s))

/-- RX_DONE.PAYLOAD (R117). -/
def execRxDonePayload (d : List Byte) (s : State) : Result :=
  rxDone .awaitingPayload d payloadCase s

end Sys2Proof.Machine
end

