-- ==== Sys2Proof/Machine/SendGate.lean ====
section
/-! DEFINITION. The Send Gate: CAN_SEND_NOW, SEND_PACKET, TX_DONE (41_send_gate.md R140 to R142). -/

namespace Sys2Proof.Machine

/-- CAN_SEND_NOW (R140): the type is ignored. -/
def execCanSendNow (_t : Byte) (s : State) : Result :=
  ifAdmitted s (.next (emit (.returnBool (gateOpen s)) s))

/-- The effect of SEND_PACKET (R141): the tag into the byte before the payload, the gate set, the bytes fixed, the write
requested. -/
def startTransmit (t : Byte) (p n : Nat) (s : State) : State :=
  let s1 := setGate (memWrite (p - 1) t s)
  emit (.returnInt 0)
    (emit (.writeReq (p - 1) (n + 1))
      { s1 with txReq := some ⟨p - 1, n + 1, s1.bytesAt (p - 1) (n + 1)⟩ })

/-- SEND_PACKET (R141) with its preconditions P1 to P5, each refused under its own name. -/
def execSendPacket (t : Byte) (p n : Nat) (s : State) : Result :=
  ifAdmitted s <|
    if s.writeGate then .refused .sendWhileTransmitting
    else if s.opened = false then .refused .sendWhileClosed
    else if ¬ (1 ≤ p ∧ p ≤ s.params.pb) then .refused .sendTagSlotOutsidePreBuffer
    else if ¬ (n ≤ s.params.mps ∧ p + n ≤ s.params.cap) then .refused .sendPayloadOutsideBuffer
    else if (sendWindow p n).meets (rxWindow s) then .refused .sendOverlapsReceive
    else .next (startTransmit t p n s)

/-- TX_DONE (R142): the gate is cleared before the handler gets the sent event (30_encoding.md R89). -/
def execTxDone (s : State) : Result :=
  ifAdmitted s <|
    if s.opened = false then .fault .driverEventWhileClosed
    else if s.txReq = none then .fault .noWriteOutstanding
    else .next (dispatch tagEvent (.const [s.params.sentCode, 0x00]) 2 { clearGate s with txReq := none })

end Sys2Proof.Machine
end

