-- ==== Sys2Proof/Machine/Wire.lean ====
section
/-! DEFINITION. The four wire rows: a byte of the link completes the outstanding read of one tag byte, and the row says which
branch of R113 it takes (30_encoding.md R93; log entry 11). -/

namespace Sys2Proof.Machine

/-- A tag byte arrives: RX_DONE of that one byte in `AwaitingType` (R112, R113), the read of `L[0]` being outstanding. The request
is tested before the open flag and the frame state, so on a closed transport without that request the fault is
`tagReadNotOutstanding`: the order is the model's choice (DESIGN CHOICE, safe: log entry 9). -/
def tagArrives (b : Byte) (k : State → State) (s : State) : Result :=
  ifAdmitted s <|
    if s.rxReq ≠ some ⟨0, 1⟩ then .fault .tagReadNotOutstanding
    else rxDone .awaitingType [b] (fun s1 => .ok (k s1)) s

/-- PKT_EVENT (R82, R113). -/
def execPktEvent (s : State) : Result :=
  tagArrives tagEvent (expect hdrEvent .awaitingEventHeader) s

/-- PKT_ACL (R83, R113). -/
def execPktAcl (s : State) : Result :=
  tagArrives tagAcl (expect hdrAcl .awaitingAclHeader) s

/-- PKT_SCO (R84, R113). -/
def execPktSco (s : State) : Result :=
  tagArrives s.params.tagSco (expect hdrSco .awaitingScoHeader) s

/-- PKT_INVALID (R86, R113). -/
def execPktInvalid (t : Byte) (s : State) : Result :=
  tagArrives t (raiseCause (.invalidTypeTag t)) s

end Sys2Proof.Machine
end

