-- ==== Sys2Proof/Machine/Dispatch.lean ====
section
/-! DEFINITION. One arm per instruction. -/

namespace Sys2Proof.Machine

def exec (i : Instr) (s : State) : Host.Outcome State Fault Refusal :=
  match i with
  | .pktEvent => Sys2Proof.Machine.execPktEvent s
  | .pktAcl => Sys2Proof.Machine.execPktAcl s
  | .pktSco => Sys2Proof.Machine.execPktSco s
  | .pktInvalid t => Sys2Proof.Machine.execPktInvalid t s
  | .initOp cfg => Sys2Proof.Machine.execInit cfg s
  | .openOp rc => Sys2Proof.Machine.execOpen rc s
  | .closeOp rc => Sys2Proof.Machine.execClose rc s
  | .registerHandler h => Sys2Proof.Machine.execRegisterHandler h s
  | .canSendNow t => Sys2Proof.Machine.execCanSendNow t s
  | .sendPacket t p n => Sys2Proof.Machine.execSendPacket t p n s
  | .setBaudrate r rc => Sys2Proof.Machine.execSetBaudrate r rc s
  | .rxDoneType d => Sys2Proof.Machine.execRxDoneType d s
  | .rxDoneEvtHdr d => Sys2Proof.Machine.execRxDoneEvtHdr d s
  | .rxDoneAclHdr d => Sys2Proof.Machine.execRxDoneAclHdr d s
  | .rxDoneScoHdr d => Sys2Proof.Machine.execRxDoneScoHdr d s
  | .rxDonePayload d => Sys2Proof.Machine.execRxDonePayload d s
  | .txDone => Sys2Proof.Machine.execTxDone s

end Sys2Proof.Machine
end

