-- ==== Sys2Proof/Machine/Fetch.lean ====
section
/-! DEFINITION. Taking the next stimulus: what it decodes to, whether a call from inside the handler may be made
(60_exceptions.md R208), and the consumer's STORE (30_encoding.md R94). Also what it takes to present one instruction to a
machine that fetches no program (log entry 6). -/

namespace Sys2Proof.Machine

/-- Who makes a stimulus (00_scope.md R11). -/
inductive Caller where
  /-- A consumer call that may also come from inside the handler (R208). -/
  | reentrant
  /-- INIT, OPEN, CLOSE, SET_BAUDRATE: refused from inside the handler (R208). -/
  | lifecycle
  /-- A driver event. -/
  | driver
  deriving DecidableEq, Repr

/-- The caller of each instruction (R11, R208). -/
def callerOf : Instr → Caller
  | .pktEvent => .driver
  | .pktAcl => .driver
  | .pktSco => .driver
  | .pktInvalid _ => .driver
  | .initOp _ => .lifecycle
  | .openOp _ => .lifecycle
  | .closeOp _ => .lifecycle
  | .registerHandler _ => .reentrant
  | .canSendNow _ => .reentrant
  | .sendPacket _ _ _ => .reentrant
  | .setBaudrate _ _ => .lifecycle
  | .rxDoneType _ => .driver
  | .rxDoneEvtHdr _ => .driver
  | .rxDoneAclHdr _ => .driver
  | .rxDoneScoHdr _ => .driver
  | .rxDonePayload _ => .driver
  | .txDone => .driver

/-- What the next input is. -/
inductive Accepted where
  /-- No stimulus: the block waits (R125, R247). -/
  | idle
  | instr (i : Instr) (s : State)
  | store (a : Nat) (d : List Byte) (s : State)
  | fault (f : Fault)
  | refused (r : Refusal)
  deriving DecidableEq, Repr

/-- The selection word formed at the port: `8 * OP + FS`, `FS` being the current frame state (R91). -/
def presented (op : BitVec 4) (x : Operand) (s : State) : Code := .port (selWord op s.frameState.code) x

/-- A call made by the handler that the last dispatch called (R208). -/
def acceptFromHandler (i : Instr) (s : State) : Accepted :=
  match callerOf i with
  | .driver => .fault .driverEventDuringCall
  | .lifecycle => if s.handlerWindow then .refused .lifecycleCallFromHandler else .fault .noHandlerRunning
  | .reentrant => if s.handlerWindow then .instr i s else .fault .noHandlerRunning

/-- Take the next input. A stimulus that is not the handler's ends the handler's turn. -/
def acceptInput (s : State) : Accepted :=
  match s.inputs with
  | [] => .idle
  | .wire b :: rest =>
    match decode s.params (.wire b) with
    | .error e => .refused (.undecodable e)
    | .ok i => .instr i { s with inputs := rest, handlerWindow := false }
  | .port op x :: rest =>
    match decode s.params (presented op x s) with
    | .error e => .refused (.undecodable e)
    | .ok i => .instr i { s with inputs := rest, handlerWindow := false }
  | .fromHandler op x :: rest =>
    match decode s.params (presented op x s) with
    | .error e => .refused (.undecodable e)
    | .ok i => acceptFromHandler i { s with inputs := rest }
  | .store a d :: rest => .store a d { s with inputs := rest }

/-- The consumer's STORE: inside `BUF`, outside both windows (20_memory.md R62; 70_reset_and_hazards.md R235, R238).
A store made by a handler while it runs, of which R208 does not speak, is placed after the step that called it, as a call is,
and judged by the windows after that step, so that one into the bytes just dispatched is admitted: the model's choice (DESIGN
CHOICE, unsafe: log entry 14). -/
def consumerStore (a : Nat) (d : List Byte) (s : State) : Result :=
  ifAdmitted s <|
    if a + d.length > s.params.cap then .refused .storeOutsideBuffer
    else if (Window.mk a (a + d.length)).meets (rxWindow s) then .refused .storeInRxWindow
    else if (Window.mk a (a + d.length)).meets (txWindow s) then .refused .storeInTxWindow
    else .next (memFill a d s)

/-! ### Presenting one instruction (for `withFetchWord`) -/

/-- A closed transport. -/
def toClosed (s : State) : State :=
  if s.opened then { s with opened := false, writeGate := false, rxReq := none, txReq := none } else s

/-- An open transport whose outstanding read is `(pos, n)` in the given frame state. -/
def toOpen (fs : FrameState) (pos n : Nat) (s : State) : State :=
  { s with configured := true, opened := true, frameState := fs, readPos := pos, bytesToRead := n, rxReq := some ⟨pos, n⟩ }

/-- The state in which the spec admits the instruction (42_transport_facade.md R165, 40_receive_framer.md R112): a driver event
needs the request it completes, a consumer call its lifecycle phase. Log entry 6. -/
def admitting (i : Instr) (s : State) : State :=
  match i with
  | .pktEvent => toOpen .awaitingType 0 1 s
  | .pktAcl => toOpen .awaitingType 0 1 s
  | .pktSco => toOpen .awaitingType 0 1 s
  | .pktInvalid _ => toOpen .awaitingType 0 1 s
  | .initOp _ => toClosed s
  | .openOp _ => { toClosed s with configured := true }
  | .closeOp _ => if s.opened then s else toOpen .awaitingType 0 1 s
  | .registerHandler _ => s
  | .canSendNow _ => s
  | .sendPacket _ _ _ =>
    { (if s.opened then s else toOpen .awaitingType 0 1 s) with writeGate := false, txReq := none }
  | .setBaudrate _ _ => { s with configured := true }
  | .rxDoneType _ => toOpen .awaitingType 0 1 s
  | .rxDoneEvtHdr _ => toOpen .awaitingEventHeader 1 2 s
  | .rxDoneAclHdr _ => toOpen .awaitingAclHeader 1 4 s
  | .rxDoneScoHdr _ => toOpen .awaitingScoHeader 1 3 s
  | .rxDonePayload d => toOpen .awaitingPayload 3 d.length s
  | .txDone =>
    { (if s.opened then s else toOpen .awaitingType 0 1 s) with
      writeGate := true
      txReq := match s.txReq with | some q => some q | none => some ⟨0, 1, [s.byteAt 0]⟩ }

/-- The input that presents a code. -/
def Input.ofCode : Code → Input
  | .wire b => .wire b
  | .port sel x => .port (selOp sel) x

end Sys2Proof.Machine
end

