-- ==== Sys2Proof/Machine/Step.lean ====
section
/-! DEFINITION. One step: take the next input and run it to its end (00_scope.md R10, 20_memory.md R63). -/

namespace Sys2Proof.Machine

/-- With no input the block waits and nothing changes (40_receive_framer.md R125, 60_exceptions.md R216). -/
def step (s : State) : Host.Outcome State Fault Refusal :=
  match acceptInput s with
  | .idle => .next s
  | .instr i s1 => exec i s1
  | .store a d s1 => consumerStore a d s1
  | .fault f => .fault f
  | .refused r => .refused r

/-- `s` with one word of the opcode table presented as the next stimulus, in the phase in which the spec admits it
(log entries 6 and 8). -/
def State.withFetchWord (s : State) (nbits w : Nat) : State :=
  match tableCode nbits w, decodeTableWord nbits w with
  | some c, some i => { admitting i s with inputs := Input.ofCode c :: s.inputs }
  | _, _ => { s with inputs := .port (selOp (BitVec.ofNat 7 w)) .nothing :: s.inputs }

end Sys2Proof.Machine
end

