-- ==== Sys2Proof/Machine/Feed.lean ====
section
/-! DEFINITION. The pseudo-operation FEED (30_encoding.md R95): a stretch of the wire byte stream, cut into RX_DONE stimuli by
the sizes of the outstanding requests. -/

namespace Sys2Proof.Machine

/-- The RX_DONE row of a frame state (R91). -/
def rxRow (fs : FrameState) (d : List Byte) : Instr :=
  match fs with
  | .awaitingType => .rxDoneType d
  | .awaitingEventHeader => .rxDoneEvtHdr d
  | .awaitingAclHeader => .rxDoneAclHdr d
  | .awaitingScoHeader => .rxDoneScoHdr d
  | .awaitingPayload => .rxDonePayload d

/-- The line `RX d` of a script (30_encoding.md R94): the stimulus RX_DONE with the block `d`, presented at the command port
before the inputs still to come and taken as any stimulus is, so that it ends the handler's turn (log entry 13). -/
def performRx (d : List Byte) (s : State) : Result :=
  step { s with inputs := .port 8 (.block d) :: s.inputs }

/-- The loop of R95, `fuel` times at most. R95 binds `Some(pos, n) = RXREQ` and gives no case for a FEED with no read
outstanding, with bytes or without: that it is the fault `noReadOutstanding` is the model's choice (DESIGN CHOICE, safe: log
entry 15). -/
def feedFuel : Nat → List Byte → State → Result
  | 0, _, s => .next s
  | fuel + 1, d, s =>
    match s.rxReq with
    | none => .fault .noReadOutstanding
    | some q =>
      if q.n = 0 then
        match performRx [] s with
        | .next s1 => feedFuel fuel d s1
        | .fault f => .fault f
        | .refused r => .refused r
      else if d = [] then .next s
      else if d.length < q.n then .refused .feedEndsInsideBlock
      else
        match performRx (d.take q.n) s with
        | .next s1 => feedFuel fuel (d.drop q.n) s1
        | .fault f => .fault f
        | .refused r => .refused r

/-- FEED. Each byte is consumed by at most one read, and at most one zero-size read precedes each: `2 * |d| + 2` turns
suffice. -/
def feed (d : List Byte) (s : State) : Result := feedFuel (2 * d.length + 2) d s

end Sys2Proof.Machine
end

