-- ==== Sys2Proof/Safety.lean ====
section
/-! DEFINITION. What holds of the machine in every reachable state (10_state.md R24, R34, R35; 20_memory.md R57, R66;
70_reset_and_hazards.md R235), the parked state (R231, R232), and what a stream of wire bytes stands for (40_receive_framer.md
R120 to R123). -/

namespace Sys2Proof.Machine

/-- The cursor rows of R35, by frame state. -/
def CursorRow (s : State) : Prop :=
  match s.frameState with
  | .awaitingType => s.readPos = 0 ∧ s.bytesToRead = 1
  | .awaitingEventHeader => s.readPos = 1 ∧ s.bytesToRead = 2
  | .awaitingAclHeader => s.readPos = 1 ∧ s.bytesToRead = 4
  | .awaitingScoHeader => s.readPos = 1 ∧ s.bytesToRead = 3
  | .awaitingPayload =>
    (s.readPos = 3 ∧ s.bytesToRead ≤ 255) ∨
    (s.readPos = 5 ∧ s.bytesToRead ≤ 65535 ∧ 4 + s.bytesToRead ≤ s.params.mps) ∨
    (s.readPos = 4 ∧ s.bytesToRead ≤ 255)

/-- The invariants I1 to I6 of R34, over an admitted configuration and a buffer in canonical form that lists no offset
outside `0 .. CAP-1`. -/
structure Inv (s : State) : Prop where
  admitted : s.params.admitted = true
  bufCanonical : Memory.wf s.buf = true
  bufInRange : ∀ c ∈ s.buf, c.1 < s.params.cap
  /-- I1. -/
  oneRead : s.opened = true → s.rxReq = some ⟨s.readPos, s.bytesToRead⟩
  /-- I2. -/
  closedQuiet : s.opened = false → s.rxReq = none ∧ s.txReq = none
  /-- I3. -/
  gateIffTransmit : s.writeGate = s.txReq.isSome
  /-- I4. -/
  openedConfigured : s.opened = true → s.configured = true
  /-- I5. -/
  cursorRow : s.opened = true → CursorRow s
  /-- I6, the bound of R24. -/
  cursorBound : s.opened = true → s.readPos + s.bytesToRead ≤ 1 + s.params.mps

/-- Read after fill (R57): while open, every byte of the current packet received so far has been written. -/
def Filled (s : State) : Prop :=
  s.opened = true → ∀ i, i < s.readPos → (Memory.read s.buf (s.phys i)).isSome = true

/-- What was latched when the tag and the header were examined agrees with the tag and the header in the buffer, of which the
tag is read again at dispatch (R66, R85): the frame state with `L[0]`, and in `AwaitingPayload` the size of the payload read
with the declared length. -/
def HeaderAgrees (s : State) : Prop :=
  s.opened = true →
    match s.frameState with
    | .awaitingType => True
    | .awaitingEventHeader => s.logical 0 = tagEvent
    | .awaitingAclHeader => s.logical 0 = tagAcl
    | .awaitingScoHeader => s.logical 0 = s.params.tagSco
    | .awaitingPayload =>
      (s.readPos = 3 → s.logical 0 = tagEvent ∧ s.bytesToRead = eventLen s) ∧
      (s.readPos = 5 → s.logical 0 = tagAcl ∧ s.bytesToRead = aclLen s) ∧
      (s.readPos = 4 → s.logical 0 = s.params.tagSco ∧ s.bytesToRead = scoLen s)

/-- The TX window is a non-empty part of the pre-buffer and its bytes are those fixed at SEND_PACKET (R235, R236). -/
def SnapshotHolds (s : State) : Prop :=
  ∀ q, s.txReq = some q →
    1 ≤ q.n ∧ q.addr + q.n ≤ s.params.pb ∧ s.bytesAt q.addr q.n = q.bytes

/-- Open and waiting for a tag: `(AwaitingType, 0, 1)` with that read outstanding (R120, R232). -/
def OpenIdle (s : State) : Prop :=
  s.opened = true ∧ s.frameState = .awaitingType ∧ s.readPos = 0 ∧ s.bytesToRead = 1 ∧ s.rxReq = some ⟨0, 1⟩

/-- What the wire carries, one item after another (R80, R86): a packet, a byte that is no tag, an ACL header that declares
too much. -/
inductive StreamItem where
  | packet (k : Packet)
  | badTag (b : Byte)
  | oversize (h0 h1 lo hi : Byte)
  deriving DecidableEq, Repr

/-- When an item is what it says. -/
def StreamItem.valid (p : Params) : StreamItem → Bool
  | .packet k => k.wellFormed p
  | .badTag b => decide (tagKind p b = .invalid)
  | .oversize _ _ lo hi => decide (p.mps < hdrAcl + le16 lo hi)

/-- The bytes of an item. -/
def StreamItem.bytes (p : Params) : StreamItem → List Byte
  | .packet k => k.bytes p
  | .badTag b => [b]
  | .oversize h0 h1 lo hi => [tagAcl, h0, h1, lo, hi]

/-- The one handler call or log record an item causes (R120 to R123). -/
def StreamItem.report (p : Params) (h : Handler) : StreamItem → Output
  | .packet k => .dispatch h (k.tag p) (.inBuf (p.pb + 1) k.body) k.body.length
  | .badTag b => .log (.invalidTypeTag b)
  | .oversize _ _ lo hi => .log (.aclLengthExceedsCapacity (le16 lo hi))

/-- Is an output a read request? -/
def Output.isReadReq : Output → Bool
  | .readReq _ _ => true
  | .writeReq _ _ => false
  | .drvConfigure _ => false
  | .drvOpen => false
  | .drvClose => false
  | .drvSetBaudrate _ => false
  | .dispatch _ _ _ _ => false
  | .log _ => false
  | .returnInt _ => false
  | .returnBool _ => false

/-- The outputs other than read requests. -/
def reports (h : List Output) : List Output := h.filter (fun o => !o.isReadReq)

/-- May the registered handler call back after a stream of items (60_exceptions.md R208)? Only if the last item was a packet;
after no item, as before. -/
def turnAfter (s : State) (xs : List StreamItem) : Bool :=
  match xs.getLast? with
  | none => s.handlerWindow
  | some (.packet _) => s.handler.isRegistered
  | some (.badTag _) => false
  | some (.oversize _ _ _ _) => false

/-- The stimuli of the receive path: RX_DONE in its five frame states and the four wire rows. -/
def isReceive : Instr → Bool
  | .pktEvent => true
  | .pktAcl => true
  | .pktSco => true
  | .pktInvalid _ => true
  | .rxDoneType _ => true
  | .rxDoneEvtHdr _ => true
  | .rxDoneAclHdr _ => true
  | .rxDoneScoHdr _ => true
  | .rxDonePayload _ => true
  | .initOp _ => false
  | .openOp _ => false
  | .closeOp _ => false
  | .registerHandler _ => false
  | .canSendNow _ => false
  | .sendPacket _ _ _ => false
  | .setBaudrate _ _ => false
  | .txDone => false

/-- The outputs a step appended to the history. -/
def emitted (s t : State) : List Output := t.history.drop s.history.length

/-- Two states that differ at most in the recorded history. -/
def SameButHistory (s t : State) : Prop := { s with history := [] } = { t with history := [] }

/-- Which phases allow a stimulus (42_transport_facade.md R165). -/
def admittedIn : Instr → Phase → Bool
  | .initOp _, p => decide (p ≠ .opened)
  | .openOp _, p => decide (p = .configured)
  | .closeOp _, p => decide (p = .opened)
  | .registerHandler _, _ => true
  | .canSendNow _, _ => true
  | .sendPacket _ _ _, p => decide (p = .opened)
  | .setBaudrate _ _, p => decide (p ≠ .unconfigured)
  | .pktEvent, p => decide (p = .opened)
  | .pktAcl, p => decide (p = .opened)
  | .pktSco, p => decide (p = .opened)
  | .pktInvalid _, p => decide (p = .opened)
  | .rxDoneType _, p => decide (p = .opened)
  | .rxDoneEvtHdr _, p => decide (p = .opened)
  | .rxDoneAclHdr _, p => decide (p = .opened)
  | .rxDoneScoHdr _, p => decide (p = .opened)
  | .rxDonePayload _, p => decide (p = .opened)
  | .txDone, p => decide (p = .opened)

end Sys2Proof.Machine
end

