-- ==== Sys2Proof/Certificates/Slice0/Obligations.lean ====
section
/-! DEFINITION. The statements for the provers, from the numbered rules of spec/. Each docstring names the rule. -/

open Sys2Proof Sys2Proof.Machine

/-! ### Encoding -/

/-- 30_encoding.md R81, R90 to R93: no operand or bit of an encoding is dropped, for every well-formed instruction. -/
def Obligations.DecodeOfEncodeIsTheInstruction : Prop :=
  ∀ (p : Params) (i : Instr), p.admitted = true → i.wellFormed p = true → decode p (encode p i) = .ok i

/-- R90, R91: a selection word that decodes differs from the encoder's word for that instruction at most in the `FS` bits,
and not in those for RX_DONE; the operand is the same. -/
def Obligations.EncodeOfDecodeKeepsTheWord : Prop :=
  ∀ (p : Params) (sel : BitVec 7) (x : Operand) (i : Instr), decode p (.port sel x) = .ok i →
    ∃ sel', encode p i = .port sel' x ∧ selOp sel' = selOp sel ∧ (selOp sel = 8 → sel' = sel)

/-- R90, R92: the unassigned operation codes 7 and 10 to 15, and RX_DONE with a frame-state code above 4, are reported
invalid, under their own names, and no other selection word is. (That beside every other operation `FS` is ignored whatever
its value, 5 to 7 included, is the model's reading of the mask 0x78 of R91, against another reading of R92: log entry 16.) -/
def Obligations.UnassignedSelectionsAreRejected : Prop :=
  ∀ (p : Params) (op : BitVec 4) (fs : BitVec 3) (x : Operand),
    ((op = 7 ∨ 10 ≤ op.toNat) → decode p (.port (selWord op fs) x) = .error (.unassignedOperation op)) ∧
    (op = 8 → 5 ≤ fs.toNat → decode p (.port (selWord op fs) x) = .error (.unassignedFrameState fs)) ∧
    (op ≠ 7 → op.toNat < 10 → (op = 8 → fs.toNat < 5) → (selectKind (selWord op fs)).isSome = true)

/-- R81, R86 (a): the whole tag byte decides; exactly three values are tags, every other is PKT_INVALID. -/
def Obligations.EveryTagByteHasOneRow : Prop :=
  ∀ (p : Params) (b : Byte), p.admitted = true →
    (b = 0x04 → decode p (.wire b) = .ok .pktEvent) ∧
    (b = 0x02 → decode p (.wire b) = .ok .pktAcl) ∧
    (b = p.tagSco → decode p (.wire b) = .ok .pktSco) ∧
    (b ≠ 0x04 → b ≠ 0x02 → b ≠ p.tagSco → decode p (.wire b) = .ok (.pktInvalid b))

/-- Words of the opcode table, written from its match columns, decode to their rows (with the recommended `TAG_SCO`;
operands are the model's samples, log entry 8). -/
def Obligations.TableWordsDecodeToTheirRows : Prop :=
  decodeTableWord 8 0x04 = some .pktEvent ∧ decodeTableWord 8 0x02 = some .pktAcl ∧
  decodeTableWord 8 0x03 = some .pktSco ∧ decodeTableWord 8 0xFF = some (.pktInvalid 0xFF) ∧
  decodeTableWord 8 0x08 = some (.openOp 0) ∧ decodeTableWord 8 0x28 = some (.sendPacket 0 1 0) ∧
  decodeTableWord 8 0x42 = some (.rxDoneAclHdr [0, 0, 0, 0]) ∧ decodeTableWord 8 0x48 = some .txDone

/-- R82 to R85: a packet's bytes, whatever follows them, parse to that packet and leave what follows. -/
def Obligations.PacketBytesParseBack : Prop :=
  ∀ (p : Params) (k : Packet) (rest : List Byte), p.admitted = true → k.wellFormed p = true →
    parsePacket p (k.bytes p ++ rest) = .ok (k, rest)

/-! ### The step -/

/-- R10, R90, R91, R125: a stimulus on the port or a tag byte on the wire that decodes to `i` runs exactly `i` (the input
consumed, the handler's turn over); with no stimulus nothing changes. (The model's: the list of inputs and the idle step, log entries 6 and
7; that such an input ends the handler's turn, log entry 13; that `FS` at the port is the code of the current frame state, log
entry 16.) -/
def Obligations.StepRunsTheDecodedInstruction : Prop :=
  (∀ (s : State) (op : BitVec 4) (x : Operand) (rest : List Input) (i : Instr),
    s.inputs = .port op x :: rest → decode s.params (.port (selWord op s.frameState.code) x) = .ok i →
    step s = exec i { s with inputs := rest, handlerWindow := false }) ∧
  (∀ (s : State) (b : Byte) (rest : List Input) (i : Instr),
    s.inputs = .wire b :: rest → decode s.params (.wire b) = .ok i →
    step s = exec i { s with inputs := rest, handlerWindow := false }) ∧
  (∀ s : State, s.inputs = [] → step s = .next s)

/-- 60_exceptions.md R208: while the handler's turn lasts, CAN_SEND_NOW, SEND_PACKET and REGISTER_PACKET_HANDLER from inside
it run as the same stimulus; INIT, OPEN, CLOSE and SET_BAUDRATE from inside it are refused. (That a driver event, or a call
when no handler was called, has no move is the model's reading: log entry 13.) -/
def Obligations.CallsFromInsideTheHandler : Prop :=
  ∀ (s : State) (op : BitVec 4) (x : Operand) (rest : List Input) (i : Instr),
    s.inputs = .fromHandler op x :: rest → decode s.params (.port (selWord op s.frameState.code) x) = .ok i →
    (s.handlerWindow = true → callerOf i = .reentrant → step s = exec i { s with inputs := rest }) ∧
    (s.handlerWindow = true → callerOf i = .lifecycle → step s = .refused .lifecycleCallFromHandler) ∧
    (callerOf i = .driver → step s = .fault .driverEventDuringCall) ∧
    (s.handlerWindow = false → callerOf i ≠ .driver → step s = .fault .noHandlerRunning)

/-- 20_memory.md R62, R235, R238: a consumer's store writes its bytes and nothing else when it lies in `BUF` outside both
windows; into the RX window while open, or into the TX window during a transmit, it is refused; outside `BUF` it is refused
(R14). (That a store outside `BUF` is refused, and the names and the order of the refusals, are the model's: log entry 14; so is that a store, a handler's too, is judged by
the windows of the state it is taken in, log entry 14, and that it leaves the handler's turn as it was, log entry 13.) -/
def Obligations.ConsumerStoresStayOutsideTheWindows : Prop :=
  ∀ (s : State) (a : Nat) (d : List Byte) (rest : List Input),
    s.inputs = .store a d :: rest → s.params.admitted = true →
    (s.params.cap < a + d.length → step s = .refused .storeOutsideBuffer) ∧
    (a + d.length ≤ s.params.cap →
      (∃ x, a ≤ x ∧ x < a + d.length ∧ (rxWindow s).lo ≤ x ∧ x < (rxWindow s).hi) →
      step s = .refused .storeInRxWindow) ∧
    (a + d.length ≤ s.params.cap →
      (¬ ∃ x, a ≤ x ∧ x < a + d.length ∧ (rxWindow s).lo ≤ x ∧ x < (rxWindow s).hi) →
      (∃ x, a ≤ x ∧ x < a + d.length ∧ (txWindow s).lo ≤ x ∧ x < (txWindow s).hi) →
      step s = .refused .storeInTxWindow) ∧
    (a + d.length ≤ s.params.cap →
      (¬ ∃ x, a ≤ x ∧ x < a + d.length ∧ (rxWindow s).lo ≤ x ∧ x < (rxWindow s).hi) →
      (¬ ∃ x, a ≤ x ∧ x < a + d.length ∧ (txWindow s).lo ≤ x ∧ x < (txWindow s).hi) →
      ∃ t, step s = .next t ∧ t = { s with buf := t.buf, inputs := rest } ∧
        ∀ x, Memory.read t.buf x =
          if a ≤ x ∧ x < a + d.length then d[x - a]? else Memory.read s.buf x)

/-! ### The wire rows -/

/-- R113, R82 to R84: each tag byte, arriving for the outstanding tag read, is stored at `L[0]`, moves the framer to its header
state and requests exactly the header; nothing else changes. (The wire row as that arrival: log entry 11.) -/
def Obligations.TagRowsStartTheirHeaders : Prop :=
  ∀ s : State, s.params.admitted = true → OpenIdle s →
    (∃ t, exec .pktEvent s = .next t ∧
      t = { s with buf := t.buf, frameState := .awaitingEventHeader, readPos := 1, bytesToRead := 2,
                   rxReq := some ⟨1, 2⟩, history := s.history ++ [.readReq 1 2] } ∧
      ∀ a, Memory.read t.buf a = if a = s.params.pb then some 0x04 else Memory.read s.buf a) ∧
    (∃ t, exec .pktAcl s = .next t ∧
      t = { s with buf := t.buf, frameState := .awaitingAclHeader, readPos := 1, bytesToRead := 4,
                   rxReq := some ⟨1, 4⟩, history := s.history ++ [.readReq 1 4] } ∧
      ∀ a, Memory.read t.buf a = if a = s.params.pb then some 0x02 else Memory.read s.buf a) ∧
    (∃ t, exec .pktSco s = .next t ∧
      t = { s with buf := t.buf, frameState := .awaitingScoHeader, readPos := 1, bytesToRead := 3,
                   rxReq := some ⟨1, 3⟩, history := s.history ++ [.readReq 1 3] } ∧
      ∀ a, Memory.read t.buf a = if a = s.params.pb then some s.params.tagSco else Memory.read s.buf a)

/-- R113, R86 (a): any other byte is logged as InvalidTypeTag, the framer is reset, a new tag is requested; the byte stays in
`L[0]` and nothing else changes. (The wire row as that arrival: log entry 11.) -/
def Obligations.InvalidTagIsLoggedAndDiscarded : Prop :=
  ∀ (s : State) (b : Byte), s.params.admitted = true → OpenIdle s → b ≠ 0x04 → b ≠ 0x02 → b ≠ s.params.tagSco →
    ∃ t, exec (.pktInvalid b) s = .next t ∧
      t = { s with buf := t.buf, frameState := .awaitingType, readPos := 0, bytesToRead := 1, rxReq := some ⟨0, 1⟩,
                   history := s.history ++ [.log (.invalidTypeTag b), .readReq 0 1] } ∧
      ∀ a, Memory.read t.buf a = if a = s.params.pb then some b else Memory.read s.buf a

/-- R93, R113: the wire rows decode the byte that RX_DONE.TYPE delivers. Wherever the tag read is outstanding, RX_DONE.TYPE of
a byte and the wire row of that byte are the same step (in the model's reading of the wire rows, log entry 11). -/
def Obligations.TypeStimulusIsItsWireRow : Prop :=
  ∀ (s : State) (b : Byte), s.rxReq = some ⟨0, 1⟩ →
    exec (.rxDoneType [b]) s = exec (decodeTag s.params b) s

/-- R93, R112: a wire row has no move unless the read of one tag byte is outstanding on an open transport in `AwaitingType`.
(The model's: that no move is a fault, the names of the faults and the order request, open, frame state, log entry 9; the wire
row as that arrival, log entry 11.) -/
def Obligations.WireRowsNeedTheTagRead : Prop :=
  ∀ (s : State) (b : Byte), s.params.admitted = true →
    (s.rxReq ≠ some ⟨0, 1⟩ → exec (decodeTag s.params b) s = .fault .tagReadNotOutstanding) ∧
    (s.rxReq = some ⟨0, 1⟩ → s.opened = false → exec (decodeTag s.params b) s = .fault .driverEventWhileClosed) ∧
    (s.rxReq = some ⟨0, 1⟩ → s.opened = true → s.frameState ≠ .awaitingType →
      exec (decodeTag s.params b) s = .fault .frameStateMismatch)

/-! ### RX_DONE -/

/-- R113: RX_DONE.TYPE inspects `L[0]`; each of the three tags selects its header size and state, any other byte is an error;
in every case the next read is issued. -/
def Obligations.TypeByteSelectsTheHeader : Prop :=
  ∀ (s : State) (b : Byte), s.params.admitted = true → OpenIdle s →
    ∃ t, exec (.rxDoneType [b]) s = .next t ∧
      (∀ a, Memory.read t.buf a = if a = s.params.pb then some b else Memory.read s.buf a) ∧
      (b = 0x04 → t = { s with buf := t.buf, frameState := .awaitingEventHeader, readPos := 1, bytesToRead := 2,
                               rxReq := some ⟨1, 2⟩, history := s.history ++ [.readReq 1 2] }) ∧
      (b = 0x02 → t = { s with buf := t.buf, frameState := .awaitingAclHeader, readPos := 1, bytesToRead := 4,
                               rxReq := some ⟨1, 4⟩, history := s.history ++ [.readReq 1 4] }) ∧
      (b = s.params.tagSco → t = { s with buf := t.buf, frameState := .awaitingScoHeader, readPos := 1, bytesToRead := 3,
                                          rxReq := some ⟨1, 3⟩, history := s.history ++ [.readReq 1 3] }) ∧
      (b ≠ 0x04 → b ≠ 0x02 → b ≠ s.params.tagSco →
        t = { s with buf := t.buf, frameState := .awaitingType, readPos := 0, bytesToRead := 1, rxReq := some ⟨0, 1⟩,
                     history := s.history ++ [.log (.invalidTypeTag b), .readReq 0 1] })

/-- R114: RX_DONE.EVT_HDR latches the parameter length `L[2]` and requests that many bytes at `L[3]`; no check, the event code
is not read. -/
def Obligations.EventHeaderLatchesItsLength : Prop :=
  ∀ (s : State) (code len : Byte), s.params.admitted = true → s.opened = true → s.frameState = .awaitingEventHeader →
    s.readPos = 1 → s.bytesToRead = 2 → s.rxReq = some ⟨1, 2⟩ →
    ∃ t, exec (.rxDoneEvtHdr [code, len]) s = .next t ∧
      t = { s with buf := t.buf, frameState := .awaitingPayload, readPos := 3, bytesToRead := len.toNat,
                   rxReq := some ⟨3, len.toNat⟩, history := s.history ++ [.readReq 3 len.toNat] } ∧
      ∀ a, Memory.read t.buf a =
        if a = s.params.pb + 1 then some code else if a = s.params.pb + 2 then some len else Memory.read s.buf a

/-- R115, R58: RX_DONE.ACL_HDR assembles `Len = lo + 256 * hi`; with `4 + Len <= MPS` it requests the payload at `L[5]`, else it
logs AclLengthExceedsCapacity, resets the framer and requests a new tag. -/
def Obligations.AclHeaderIsBoundsChecked : Prop :=
  ∀ (s : State) (h0 h1 lo hi : Byte), s.params.admitted = true → s.opened = true → s.frameState = .awaitingAclHeader →
    s.readPos = 1 → s.bytesToRead = 4 → s.rxReq = some ⟨1, 4⟩ →
    ∃ t, exec (.rxDoneAclHdr [h0, h1, lo, hi]) s = .next t ∧
      (4 + (lo.toNat + 256 * hi.toNat) ≤ s.params.mps →
        t = { s with buf := t.buf, frameState := .awaitingPayload, readPos := 5, bytesToRead := lo.toNat + 256 * hi.toNat,
                     rxReq := some ⟨5, lo.toNat + 256 * hi.toNat⟩,
                     history := s.history ++ [.readReq 5 (lo.toNat + 256 * hi.toNat)] }) ∧
      (s.params.mps < 4 + (lo.toNat + 256 * hi.toNat) →
        t = { s with buf := t.buf, frameState := .awaitingType, readPos := 0, bytesToRead := 1, rxReq := some ⟨0, 1⟩,
                     history := s.history ++
                       [.log (.aclLengthExceedsCapacity (lo.toNat + 256 * hi.toNat)), .readReq 0 1] }) ∧
      ∀ a, Memory.read t.buf a =
        if a = s.params.pb + 1 then some h0 else if a = s.params.pb + 2 then some h1
        else if a = s.params.pb + 3 then some lo else if a = s.params.pb + 4 then some hi else Memory.read s.buf a

/-- R116: RX_DONE.SCO_HDR latches the length `L[3]` and requests that many bytes at `L[4]`; no check, the handle is not read. -/
def Obligations.ScoHeaderLatchesItsLength : Prop :=
  ∀ (s : State) (h0 h1 len : Byte), s.params.admitted = true → s.opened = true → s.frameState = .awaitingScoHeader →
    s.readPos = 1 → s.bytesToRead = 3 → s.rxReq = some ⟨1, 3⟩ →
    ∃ t, exec (.rxDoneScoHdr [h0, h1, len]) s = .next t ∧
      t = { s with buf := t.buf, frameState := .awaitingPayload, readPos := 4, bytesToRead := len.toNat,
                   rxReq := some ⟨4, len.toNat⟩, history := s.history ++ [.readReq 4 len.toNat] } ∧
      ∀ a, Memory.read t.buf a =
        if a = s.params.pb + 1 then some h0 else if a = s.params.pb + 2 then some h1
        else if a = s.params.pb + 3 then some len else Memory.read s.buf a

/-- R117, R118: RX_DONE.PAYLOAD stores the block, calls the handler with the tag in `L[0]`, the bytes from `L[1]` on (those
received before and the block) and their number, then resets the framer and requests a new tag. Nothing else of the spec's state
changes. (The model's: what the record of the call holds, log entry 12; the handler's turn that follows, log entry 13.) -/
def Obligations.PayloadIsDispatchedWhole : Prop :=
  ∀ (s : State) (d : List Byte), s.params.admitted = true → s.opened = true → s.frameState = .awaitingPayload →
    s.rxReq = some ⟨s.readPos, s.bytesToRead⟩ → d.length = s.bytesToRead →
    (s.bytesToRead = 0 → s.params.zeroReadCompletes = true) →
    1 ≤ s.readPos → s.readPos + s.bytesToRead ≤ 1 + s.params.mps →
    ∃ t, exec (.rxDonePayload d) s = .next t ∧
      t = { s with buf := t.buf, frameState := .awaitingType, readPos := 0, bytesToRead := 1, rxReq := some ⟨0, 1⟩,
                   handlerWindow := s.handler.isRegistered,
                   history := s.history ++
                     [.dispatch s.handler (s.byteAt s.params.pb)
                        (.inBuf (s.params.pb + 1) (s.bytesAt (s.params.pb + 1) (s.readPos - 1) ++ d))
                        (s.readPos - 1 + s.bytesToRead),
                      .readReq 0 1] } ∧
      ∀ a, Memory.read t.buf a =
        if s.params.pb + s.readPos ≤ a ∧ a < s.params.pb + s.readPos + d.length then d[a - (s.params.pb + s.readPos)]?
        else Memory.read s.buf a

/-- R112, R183, R184, R187: RX_DONE has no move on a closed transport, with no read outstanding, with a block of another size,
for a zero-size read a driver never completes, or in another frame state. (That no move is a fault, with these names, is the
model's: log entry 9.) -/
def Obligations.BlockReceivedNeedsItsRequest : Prop :=
  ∀ (s : State) (fs : FrameState) (d : List Byte), s.params.admitted = true →
    (s.opened = false → exec (rxRow fs d) s = .fault .driverEventWhileClosed) ∧
    (s.opened = true → s.rxReq = none → exec (rxRow fs d) s = .fault .noReadOutstanding) ∧
    (∀ q, s.opened = true → s.rxReq = some q → d.length ≠ q.n → exec (rxRow fs d) s = .fault .blockLengthMismatch) ∧
    (∀ q, s.opened = true → s.rxReq = some q → d.length = q.n → q.n = 0 → s.params.zeroReadCompletes = false →
      exec (rxRow fs d) s = .fault .zeroReadNeverCompletes) ∧
    (∀ q, s.opened = true → s.rxReq = some q → d.length = q.n → (q.n = 0 → s.params.zeroReadCompletes = true) →
      s.frameState ≠ fs → exec (rxRow fs d) s = .fault .frameStateMismatch)

/-- R112, R111: every step of the receive path ends with exactly one new read request, the one the cursor describes, and with
that read outstanding, errors included. -/
def Obligations.EveryReceiveStepIssuesOneRead : Prop :=
  ∀ (i : Instr) (s t : State), isReceive i = true → exec i s = .next t →
    t.rxReq = some ⟨t.readPos, t.bytesToRead⟩ ∧
    (emitted s t).filter Output.isReadReq = [.readReq t.readPos t.bytesToRead] ∧
    (emitted s t).getLast? = some (.readReq t.readPos t.bytesToRead)

/-- R204: a step that logs a cause ends, on the receive path, in `(AwaitingType, 0, 1)` with that read requested and nothing
but the buffer and the framer changed; INIT's ConfigError changes no state element at all. -/
def Obligations.ErrorEntryLogsAndResets : Prop :=
  ∀ (i : Instr) (s t : State) (c : Cause), exec i s = .next t → .log c ∈ emitted s t →
    (isReceive i = true ∧
      t = { s with buf := t.buf, frameState := .awaitingType, readPos := 0, bytesToRead := 1, rxReq := some ⟨0, 1⟩,
                   history := s.history ++ [.log c, .readReq 0 1] }) ∨
    (c = .configError ∧ (i = .initOp .missing ∨ i = .initOp .wrongKind) ∧
      t = { s with history := s.history ++ [.log .configError] })

/-! ### The Send Gate -/

/-- R140: CAN_SEND_NOW answers true iff `WRITE_GATE` is false, in every lifecycle phase, whatever its argument, and changes
nothing (the answer is recorded in the history, R12). -/
def Obligations.CanSendNowAnswersTheGate : Prop :=
  ∀ (s : State) (t : Byte), s.params.admitted = true →
    exec (.canSendNow t) s = .next { s with history := s.history ++ [.returnBool (!s.writeGate)] }

/-- R141: SEND_PACKET under P1 to P5 writes the tag into the byte before the payload and no other byte, sets the gate, fixes
the bytes to send, requests the write and returns 0; when a precondition fails it is refused. The premise of the last clause
says that the RX window is not empty, as it never is while open (R60). (The model's: which name each refusal has, and that the
first failing precondition gives it, log entry 10; the place of the return value among the outputs, log entry 12.) -/
def Obligations.SendPacketPrependsTheTag : Prop :=
  ∀ (s : State) (t : Byte) (p n : Nat), s.params.admitted = true →
    (s.writeGate = false → s.opened = true → 1 ≤ p → p ≤ s.params.pb → n ≤ s.params.mps → p + n ≤ s.params.cap →
      p + n ≤ s.params.pb →
      ∃ s', exec (.sendPacket t p n) s = .next s' ∧
        s' = { s with buf := s'.buf, writeGate := true, txReq := some ⟨p - 1, n + 1, t :: s.bytesAt p n⟩,
                      history := s.history ++ [.writeReq (p - 1) (n + 1), .returnInt 0] } ∧
        ∀ a, Memory.read s'.buf a = if a = p - 1 then some t else Memory.read s.buf a) ∧
    (s.writeGate = true → exec (.sendPacket t p n) s = .refused .sendWhileTransmitting) ∧
    (s.writeGate = false → s.opened = false → exec (.sendPacket t p n) s = .refused .sendWhileClosed) ∧
    (s.writeGate = false → s.opened = true → ¬ (1 ≤ p ∧ p ≤ s.params.pb) →
      exec (.sendPacket t p n) s = .refused .sendTagSlotOutsidePreBuffer) ∧
    (s.writeGate = false → s.opened = true → 1 ≤ p ∧ p ≤ s.params.pb → ¬ (n ≤ s.params.mps ∧ p + n ≤ s.params.cap) →
      exec (.sendPacket t p n) s = .refused .sendPayloadOutsideBuffer) ∧
    (s.writeGate = false → s.opened = true → 1 ≤ p ∧ p ≤ s.params.pb → n ≤ s.params.mps ∧ p + n ≤ s.params.cap →
      1 ≤ s.readPos + s.bytesToRead → s.params.pb < p + n → exec (.sendPacket t p n) s = .refused .sendOverlapsReceive)

/-- R142: with a write outstanding on an open transport, TX_DONE clears the gate and the request and delivers the synthetic
event `[SENT_CODE, 0x00]` to the current handler; nothing else of the spec's state changes. The shape of the event, two data
bytes and length 2, is the spec's own choice D6 (R89; log entry 19). (The model's: what the record of the call holds, log entry
12; the handler's turn that follows, log entry 13.) -/
def Obligations.TransmitDoneDeliversTheSentEvent : Prop :=
  ∀ (s : State) (q : WriteRequest), s.params.admitted = true → s.opened = true → s.txReq = some q →
    exec .txDone s = .next
      { s with writeGate := false, txReq := none, handlerWindow := s.handler.isRegistered,
               history := s.history ++ [.dispatch s.handler 0x04 (.const [s.params.sentCode, 0x00]) 2] }

/-- R142, R186, R187: TX_DONE has no move on a closed transport or with no write outstanding. (That no move is a fault, with
these names, is the model's: log entry 9.) -/
def Obligations.TransmitDoneNeedsItsRequest : Prop :=
  ∀ s : State, s.params.admitted = true →
    (s.opened = false → exec .txDone s = .fault .driverEventWhileClosed) ∧
    (s.opened = true → s.txReq = none → exec .txDone s = .fault .noWriteOutstanding)

/-- R143: from SEND_PACKET until TX_DONE (or CLOSE, or a successful OPEN) the gate is true and a second send is refused; no
other stimulus changes the gate. -/
def Obligations.SendGateExclusivity : Prop :=
  ∀ (i : Instr) (s t : State), exec i s = .next t →
    (∀ ty p n, i = .sendPacket ty p n → s.writeGate = false ∧ t.writeGate = true) ∧
    (s.writeGate = false → t.writeGate = true → ∃ ty p n, i = .sendPacket ty p n) ∧
    (s.writeGate = true → t.writeGate = false → i = .txDone ∨ (∃ rc, i = .closeOp rc) ∨ i = .openOp 0) ∧
    (i = .txDone ∨ (∃ rc, i = .closeOp rc) ∨ i = .openOp 0 → t.writeGate = false)

/-! ### The Transport Facade -/

/-- R160: INIT with a UART configuration copies it to the driver and marks the transport configured; a missing or wrong-kind
one is logged and changes no state element; on an open transport it is refused (the choice D13; the name of the refusal is the
model's: log entry 10). -/
def Obligations.InitConfiguresOrLogs : Prop :=
  ∀ s : State, s.params.admitted = true →
    (s.opened = false → ∀ c, exec (.initOp (.uart c)) s = .next
      { s with drvCfg := c, configured := true, history := s.history ++ [.drvConfigure c] }) ∧
    (s.opened = false → exec (.initOp .missing) s = .next { s with history := s.history ++ [.log .configError] }) ∧
    (s.opened = false → exec (.initOp .wrongKind) s = .next { s with history := s.history ++ [.log .configError] }) ∧
    (s.opened = true → ∀ cfg, exec (.initOp cfg) s = .refused .initWhileOpen)

/-- R161: OPEN on success clears the gate, resets the framer and issues the first read; on failure it returns the driver's code
and changes no state element; out of phase it is refused (the choice D13; the names of the refusals are the model's: log entry
10). The place of the return value among the outputs is the model's: log entry 12. -/
def Obligations.OpenStartsTheFramer : Prop :=
  ∀ s : State, s.params.admitted = true →
    (s.configured = true → s.opened = false → exec (.openOp 0) s = .next
      { s with opened := true, writeGate := false, frameState := .awaitingType, readPos := 0, bytesToRead := 1,
               rxReq := some ⟨0, 1⟩, history := s.history ++ [.drvOpen, .readReq 0 1, .returnInt 0] }) ∧
    (s.configured = true → s.opened = false → ∀ rc, rc ≠ 0 → exec (.openOp rc) s = .next
      { s with history := s.history ++ [.drvOpen, .returnInt rc] }) ∧
    (s.opened = true → ∀ rc, exec (.openOp rc) s = .refused .openWhileOpen) ∧
    (s.opened = false → s.configured = false → ∀ rc, exec (.openOp rc) s = .refused .openUnconfigured)

/-- R162: CLOSE clears the gate and voids both requests whatever the driver answers, and touches nothing else; on a closed
transport it is refused (the choice D13; the name of the refusal is the model's: log entry 10). The place of the return value
among the outputs is the model's: log entry 12. -/
def Obligations.CloseVoidsTheRequests : Prop :=
  ∀ (s : State) (rc : Int), s.params.admitted = true →
    (s.opened = true → exec (.closeOp rc) s = .next
      { s with opened := false, writeGate := false, rxReq := none, txReq := none,
               history := s.history ++ [.drvClose, .returnInt rc] }) ∧
    (s.opened = false → exec (.closeOp rc) s = .refused .closeWhileClosed)

/-- R163: REGISTER_PACKET_HANDLER replaces the handler, or restores the no-op sink, in every phase, and changes nothing else. -/
def Obligations.RegisterReplacesTheHandler : Prop :=
  ∀ s : State, s.params.admitted = true →
    (∀ id, exec (.registerHandler (some id)) s = .next { s with handler := .registered id }) ∧
    exec (.registerHandler none) s = .next { s with handler := .nopSink }

/-- R164: SET_BAUDRATE is passed to the driver and its answer returned; no state element changes; unconfigured it is refused (the
choice D13; the name of the refusal is the model's: log entry 10). The place of the return value among the outputs is the
model's: log entry 12. -/
def Obligations.SetBaudrateIsDelegated : Prop :=
  ∀ (s : State) (r : Nat) (rc : Int), s.params.admitted = true →
    (s.configured = true → exec (.setBaudrate r rc) s = .next
      { s with history := s.history ++ [.drvSetBaudrate r, .returnInt rc] }) ∧
    (s.configured = false → exec (.setBaudrate r rc) s = .refused .setBaudrateUnconfigured)

/-- R231: CLOSE then a successful OPEN bring any open framer back to `(AwaitingType, 0, 1)` with that read outstanding and the
gate clear; the buffer, the handler and the configuration are kept. -/
def Obligations.CloseThenOpenRecovers : Prop :=
  ∀ (s : State) (rc : Int), Inv s → s.opened = true →
    ∃ t u, exec (.closeOp rc) s = .next t ∧ exec (.openOp 0) t = .next u ∧ OpenIdle u ∧ u.writeGate = false ∧
      u.txReq = none ∧ u.buf = s.buf ∧ u.handler = s.handler ∧ u.drvCfg = s.drvCfg ∧ u.configured = true

/-! ### Rules of the whole machine -/

/-- R7: a configuration with `MPS < 258` is refused, whatever the stimulus. (That every meaning refuses it, and the name of the
refusal, are the model's: log entry 17.) -/
def Obligations.SmallBuffersAreRefused : Prop :=
  ∀ (i : Instr) (s : State), s.params.mps < 258 → exec i s = .refused .configurationNotAdmitted

/-- R8: a configuration in which two of the three tags are equal is refused, whatever the stimulus. (R8 gives the constraint;
that it is met by a refusal, as for R7, is the model's: log entry 17.) -/
def Obligations.EqualTagsAreRefused : Prop :=
  ∀ (i : Instr) (s : State), s.params.tagSco = 0x04 ∨ s.params.tagSco = 0x02 →
    exec i s = .refused .configurationNotAdmitted

/-- R165: outside its lifecycle phases a consumer's stimulus is refused and a driver's has no move; RX_DONE and TX_DONE run only
with their request outstanding. (That no move is a fault: log entry 9.) -/
def Obligations.PhasesAdmitTheirStimuli : Prop :=
  ∀ (i : Instr) (s : State), s.params.admitted = true →
    (admittedIn i s.phase = false → callerOf i ≠ .driver → ∃ r, exec i s = .refused r) ∧
    (admittedIn i s.phase = false → callerOf i = .driver → ∃ f, exec i s = .fault f) ∧
    (∀ t, exec i s = .next t → isReceive i = true → s.rxReq.isSome = true) ∧
    (∀ t, exec i s = .next t → i = .txDone → s.txReq.isSome = true)

/-- R38, R37, R31, R32: the framer's registers change only on the receive path and in a successful OPEN; the outstanding read
there and in CLOSE; the outstanding write by SEND_PACKET, TX_DONE and CLOSE; the handler only by REGISTER_PACKET_HANDLER; the
configuration only by INIT; the open flag only by OPEN and CLOSE; the parameters never; the history only grows. (WRITE_GATE
and BUF have statements of their own: SendGateExclusivity and OnlyTheTagSlotAndTheReadAreWritten.) -/
def Obligations.OnlyTheNamedStimuliWriteEachElement : Prop :=
  ∀ (i : Instr) (s t : State), exec i s = .next t →
    ((t.frameState ≠ s.frameState ∨ t.readPos ≠ s.readPos ∨ t.bytesToRead ≠ s.bytesToRead) →
      isReceive i = true ∨ i = .openOp 0) ∧
    (t.handler ≠ s.handler → ∃ h, i = .registerHandler h) ∧
    ((t.drvCfg ≠ s.drvCfg ∨ t.configured ≠ s.configured) → ∃ c, i = .initOp (.uart c) ∧ t.configured = true) ∧
    (t.opened ≠ s.opened → (i = .openOp 0 ∧ t.opened = true) ∨ (∃ rc, i = .closeOp rc ∧ t.opened = false)) ∧
    (t.rxReq ≠ s.rxReq → isReceive i = true ∨ i = .openOp 0 ∨ ∃ rc, i = .closeOp rc) ∧
    (t.txReq ≠ s.txReq → i = .txDone ∨ (∃ rc, i = .closeOp rc) ∨ ∃ ty p n, i = .sendPacket ty p n) ∧
    t.params = s.params ∧ t.inputs = s.inputs ∧ s.history <+: t.history

/-- R56: the buffer changes only at the tag slot of a SEND_PACKET and inside the outstanding read of a receive step. -/
def Obligations.OnlyTheTagSlotAndTheReadAreWritten : Prop :=
  ∀ (i : Instr) (s t : State), exec i s = .next t → ∀ a, Memory.read t.buf a ≠ Memory.read s.buf a →
    (∃ ty p n, i = .sendPacket ty p n ∧ a = p - 1) ∨
    (isReceive i = true ∧ ∃ q, s.rxReq = some q ∧ s.params.pb + q.pos ≤ a ∧ a < s.params.pb + q.pos + q.n)

/-- R24, R123: from a state that keeps the invariants, every read that any stimulus requests lies inside the logical view. -/
def Obligations.EveryReadRequestFitsTheBuffer : Prop :=
  ∀ (i : Instr) (s t : State) (pos n : Nat), Inv s → exec i s = .next t → .readReq pos n ∈ emitted s t →
    pos + n ≤ 1 + s.params.mps ∧ s.params.pb + pos + n ≤ s.params.cap

/-- R6: no step changes the parameters, whatever the input. -/
def Obligations.StepsKeepTheParameters : Prop :=
  ∀ s t : State, step s = .next t → t.params = s.params

/-! ### Invariants -/

/-- R36: the state after power-on keeps every invariant; the values of `READ_POS`, `BYTES_TO_READ` and `DRVCFG` there are not
claimed (they are the model's choice, log entries 2 and 3); that the parameters there are admitted rests on log entry 1. -/
def Obligations.ResetKeepsTheInvariants : Prop :=
  Inv State.reset ∧ Filled State.reset ∧ HeaderAgrees State.reset ∧ SnapshotHolds State.reset ∧
  State.reset.frameState = .awaitingType ∧ State.reset.handler = .nopSink ∧ State.reset.writeGate = false ∧
  State.reset.configured = false ∧ State.reset.opened = false ∧ State.reset.rxReq = none ∧ State.reset.txReq = none

/-- R34 (I1 to I6), R24, R35: every step keeps the invariants, the canonical form and the range of the buffer. -/
def Obligations.StepsKeepTheInvariants : Prop :=
  ∀ s t : State, Inv s → step s = .next t → Inv t

/-- R57, R66: every step keeps the current packet's bytes written and the latched kind and length in agreement with the tag and
the header in the buffer. -/
def Obligations.StepsKeepTheHeaderInAgreement : Prop :=
  ∀ s t : State, Inv s → Filled s → HeaderAgrees s → step s = .next t → Filled t ∧ HeaderAgrees t

/-- R235, R236: every step keeps the bytes of a transmit in flight, in the pre-buffer, as they were fixed at SEND_PACKET. -/
def Obligations.StepsKeepTheTransmitBytes : Prop :=
  ∀ s t : State, Inv s → SnapshotHolds s → step s = .next t → SnapshotHolds t

/-- R121: whatever packet is dispatched, its type is one of the three tags and the reported length is the header size of that
type plus the length its header declares; exactly that many bytes are handed over (R117, R118). (What the record of the call
holds, the handler and the bytes among it, is the model's: log entry 12.) -/
def Obligations.DispatchedLengthIsDeclared : Prop :=
  ∀ (s t : State) (d : List Byte), Inv s → HeaderAgrees s → exec (.rxDonePayload d) s = .next t →
    ∃ ty bytes len, emitted s t = [.dispatch s.handler ty (.inBuf (s.params.pb + 1) bytes) len, .readReq 0 1] ∧
      bytes.length = len ∧
      ((ty = 0x04 ∧ len = 2 + eventLen s) ∨ (ty = 0x02 ∧ len = 4 + aclLen s) ∨
       (ty = s.params.tagSco ∧ len = 3 + scoLen s))

/-! ### The framer over whole streams -/

/-- R120, framing completeness: back-to-back packets cause one handler call each, in order, with exactly the header and payload
bytes; no log record; the framer ends where it began. (The model's: the bounded loop of FEED, log entry 15; what the record of
a call holds, log entry 12.) -/
def Obligations.FramingCompleteness : Prop :=
  ∀ (s : State) (ks : List Packet), s.params.admitted = true → OpenIdle s → s.params.zeroReadCompletes = true →
    (∀ k ∈ ks, k.wellFormed s.params = true) →
    ∃ t, feed (ks.flatMap (Packet.bytes s.params)) s = .next t ∧ OpenIdle t ∧
      reports t.history = reports s.history ++
        ks.map (fun k => .dispatch s.handler (k.tag s.params) (.inBuf (s.params.pb + 1) k.body) k.body.length)

/-- R122, resync: one corrupt tag byte and then a packet cause one discarded byte and one delivery. (The model's: the bounded
loop of FEED, log entry 15; what the record of a call holds, log entry 12.) -/
def Obligations.ResyncAfterACorruptTag : Prop :=
  ∀ (s : State) (b : Byte) (k : Packet), s.params.admitted = true → OpenIdle s → s.params.zeroReadCompletes = true →
    b ≠ 0x04 → b ≠ 0x02 → b ≠ s.params.tagSco → k.wellFormed s.params = true →
    ∃ t, feed (b :: k.bytes s.params) s = .next t ∧ OpenIdle t ∧
      reports t.history = reports s.history ++
        [.log (.invalidTypeTag b),
         .dispatch s.handler (k.tag s.params) (.inBuf (s.params.pb + 1) k.body) k.body.length]

/-- R120, R122, R123: any mixture of packets, bytes that are no tag, and ACL headers that declare too much is reported item by
item in stream order; the transmit side, the handler and the pre-buffer are untouched. (The model's: the bounded loop of FEED,
log entry 15; what the record of a call holds, log entry 12.) -/
def Obligations.StreamItemsAreReportedInOrder : Prop :=
  ∀ (s : State) (xs : List StreamItem), s.params.admitted = true → OpenIdle s → s.params.zeroReadCompletes = true →
    (∀ x ∈ xs, x.valid s.params = true) →
    ∃ t, feed (xs.flatMap (StreamItem.bytes s.params)) s = .next t ∧ OpenIdle t ∧
      reports t.history = reports s.history ++ xs.map (StreamItem.report s.params s.handler) ∧
      t.writeGate = s.writeGate ∧ t.txReq = s.txReq ∧ t.handler = s.handler ∧ t.params = s.params ∧
      ∀ a, a < s.params.pb → Memory.read t.buf a = Memory.read s.buf a

/-- R95, R208: FEED presents stimuli, so each block it delivers ends the handler's turn and only the handler called by the last
item may call back. (The model's: the handler's turn, log entry 13; the bounded loop of FEED, log entry 15.) -/
def Obligations.FeedLeavesTheTurnToTheLastItem : Prop :=
  ∀ (s : State) (xs : List StreamItem), s.params.admitted = true → OpenIdle s → s.params.zeroReadCompletes = true →
    (∀ x ∈ xs, x.valid s.params = true) →
    ∃ t, feed (xs.flatMap (StreamItem.bytes s.params)) s = .next t ∧
      t.inputs = s.inputs ∧ t.handlerWindow = turnAfter s xs

/-! ### Independence of the two directions -/

/-- R206: where a received block and a transmit completion are both possible, the two orders end in the same state with the same
outputs up to their order. -/
def Obligations.ReceiveAndTransmitDoneCommute : Prop :=
  ∀ (fs : FrameState) (d : List Byte) (s a b : State),
    exec (rxRow fs d) s = .next a → exec .txDone s = .next b →
    ∃ c c', exec .txDone a = .next c ∧ exec (rxRow fs d) b = .next c' ∧
      SameButHistory c c' ∧ c.history.Perm c'.history

/-- R208: a call from inside the handler that a received packet called may be placed after the step. Made before the rest of
that step (RESET_FRAMER, ISSUE_READ) or after it, it leaves the same state up to the order of the history. -/
def Obligations.HandlerCallsMayFollowTheStep : Prop :=
  ∀ (i : Instr) (m m' : State), callerOf i = .reentrant → 1 ≤ m.readPos + m.bytesToRead → exec i m = .next m' →
    ∃ t, exec i (issueRead (resetFramer m)) = .next t ∧
      SameButHistory t (issueRead (resetFramer m')) ∧ t.history.Perm (issueRead (resetFramer m')).history
end

