-- ==== Sys2Proof/Laws/Decode.lean ====
section
/-! SUPPORT. The selection words and the tag bytes of the opcode table. -/

namespace Sys2Proof

/-- A row's word selects that row. -/
theorem selectKind_word (k : StimulusKind) : selectKind k.word = some k := by
  cases k <;> decide

/-- No selection word matches two rows. -/
theorem selTable_rows_disjoint :
    selTable.Pairwise (fun r r' => ∀ sel : BitVec 7, sel &&& r.mask = r.pattern → sel &&& r'.mask ≠ r'.pattern) := by
  decide

@[simp] theorem tagKind_event (p : Params) : tagKind p tagEvent = .event := by simp [tagKind]

@[simp] theorem tagKind_acl (p : Params) : tagKind p tagAcl = .acl := by simp [tagKind, tagEvent, tagAcl]

theorem tagKind_sco {p : Params} (h : p.admitted = true) : tagKind p p.tagSco = .sco := by
  simp only [Params.admitted, Bool.and_eq_true, decide_eq_true_eq] at h
  simp [tagKind, h.2.1, h.2.2]

theorem tagKind_eq_event {p : Params} {b : Byte} : tagKind p b = .event ↔ b = tagEvent := by
  unfold tagKind
  split_ifs <;> simp_all

theorem tagKind_eq_acl {p : Params} {b : Byte} (h : tagKind p b = .acl) : b = tagAcl := by
  unfold tagKind at h
  split_ifs at h
  assumption

theorem tagKind_eq_sco {p : Params} {b : Byte} (h : tagKind p b = .sco) : b = p.tagSco := by
  unfold tagKind at h
  split_ifs at h
  assumption

theorem tagKind_invalid {p : Params} {b : Byte} :
    tagKind p b = .invalid ↔ b ≠ tagEvent ∧ b ≠ tagAcl ∧ b ≠ p.tagSco := by
  unfold tagKind
  split_ifs <;> simp_all

/-- The length bytes of an 8-bit length. -/
theorem lenLow_toNat {n : Nat} (h : n ≤ 255) : (lenLow n).toNat = n := by
  simp [lenLow]; omega

/-- Splitting a 16-bit length and assembling it again (R85). -/
theorem le16_split {n : Nat} (h : n ≤ 65535) : le16 (lenLow n) (lenHigh n) = n := by
  simp [le16, lenLow, lenHigh]; omega

end Sys2Proof
end

