-- ==== Sys2Proof/Laws/Memory.lean ====
section
/-! SUPPORT. The laws of the buffer: read after write, frame, canonical form, range. -/

namespace Sys2Proof.Machine

theorem Memory.read_set (m : Memory) (a : Nat) (v : Byte) (x : Nat) :
    Memory.read (Memory.set m a v) x = if x = a then some v else Memory.read m x := by
  induction m with
  | nil => simp [Memory.set, Memory.read]
  | cons c m ih =>
    obtain ⟨b, w⟩ := c
    by_cases h1 : a < b
    · simp only [Memory.set, if_pos h1, Memory.read]
    · by_cases h2 : a = b
      · subst h2
        by_cases hx : x = a <;> simp [Memory.set, Memory.read, hx]
      · simp only [Memory.set, if_neg h1, if_neg h2, Memory.read, ih]
        by_cases hx : x = b
        · have : x ≠ a := fun e => h2 (e ▸ hx)
          simp [hx, Ne.symm h2]
        · simp [hx]

/-- What a fill leaves at every offset: the block inside it, the old byte outside it. -/
theorem Memory.read_fill (d : List Byte) (m : Memory) (a x : Nat) :
    Memory.read (Memory.fill m a d) x =
      if a ≤ x ∧ x < a + d.length then d[x - a]? else Memory.read m x := by
  induction d generalizing m a with
  | nil =>
    have : ¬ (a ≤ x ∧ x < a + ([] : List Byte).length) := by simp
    rw [if_neg this]; rfl
  | cons v d ih =>
    simp only [Memory.fill, ih, Memory.read_set, List.length_cons]
    by_cases hx : x = a
    · subst hx
      simp
    · by_cases hin : a + 1 ≤ x ∧ x < a + 1 + d.length
      · have h2 : a ≤ x ∧ x < a + (d.length + 1) := by omega
        have h3 : x - a = (x - (a + 1)) + 1 := by omega
        rw [if_pos hin, if_pos h2, h3, List.getElem?_cons_succ]
      · have h2 : ¬ (a ≤ x ∧ x < a + (d.length + 1)) := by omega
        rw [if_neg hin, if_neg h2, if_neg hx]

theorem Memory.mem_set {m : Memory} {a : Nat} {v : Byte} {c : Host.Cell}
    (h : c ∈ Memory.set m a v) : c = (a, v) ∨ c ∈ m := by
  induction m with
  | nil => exact .inl (by simpa [Memory.set] using h)
  | cons e m ih =>
    obtain ⟨b, w⟩ := e
    simp only [Memory.set] at h
    split_ifs at h with h1 h2
    · rcases List.mem_cons.1 h with h | h
      · exact .inl h
      · exact .inr h
    · rcases List.mem_cons.1 h with h | h
      · exact .inl h
      · exact .inr (List.mem_cons_of_mem _ h)
    · rcases List.mem_cons.1 h with h | h
      · exact .inr (h ▸ List.mem_cons_self)
      · rcases ih h with h | h
        · exact .inl h
        · exact .inr (List.mem_cons_of_mem _ h)

theorem Memory.wf_cons {c : Host.Cell} {m : Memory} :
    Memory.wf (c :: m) = true ↔ (∀ e ∈ m, c.1 < e.1) ∧ Memory.wf m = true := by
  simp [Memory.wf]

/-- A one-byte store keeps the canonical form. -/
theorem Memory.wf_set {m : Memory} (h : Memory.wf m = true) (a : Nat) (v : Byte) :
    Memory.wf (Memory.set m a v) = true := by
  induction m with
  | nil => simp [Memory.set, Memory.wf]
  | cons e m ih =>
    obtain ⟨b, w⟩ := e
    obtain ⟨hlt, hm⟩ := Memory.wf_cons.1 h
    simp only [Memory.set]
    split_ifs with h1 h2
    · refine Memory.wf_cons.2 ⟨fun e he => ?_, h⟩
      rcases List.mem_cons.1 he with he | he
      · subst he; exact h1
      · exact Nat.lt_trans h1 (hlt e he)
    · subst h2
      exact Memory.wf_cons.2 ⟨hlt, hm⟩
    · refine Memory.wf_cons.2 ⟨fun e he => ?_, ih hm⟩
      rcases Memory.mem_set he with he | he
      · subst he; simp only; omega
      · exact hlt e he

/-- A block store keeps the canonical form. -/
theorem Memory.wf_fill (d : List Byte) {m : Memory} (h : Memory.wf m = true) (a : Nat) :
    Memory.wf (Memory.fill m a d) = true := by
  induction d generalizing m a with
  | nil => exact h
  | cons v d ih => exact ih (Memory.wf_set h a v) (a + 1)

/-- A block store lists no offset outside the old ones and its own range. -/
theorem Memory.mem_fill (d : List Byte) {m : Memory} {a : Nat} {c : Host.Cell}
    (h : c ∈ Memory.fill m a d) : (a ≤ c.1 ∧ c.1 < a + d.length) ∨ c ∈ m := by
  induction d generalizing m a with
  | nil => exact .inr h
  | cons v d ih =>
    rcases ih h with h | h
    · left; simp only [List.length_cons]; omega
    · rcases Memory.mem_set h with h | h
      · left; subst h; simp
      · exact .inr h

end Sys2Proof.Machine
end

