-- ==== Sys2Proof/Laws/State.lean ====
section
/-! SUPPORT. The small lemmas of the state: what each shared update does to each field it writes, and that it leaves the
others alone; what the byte accessors read. -/

namespace Sys2Proof.Machine

variable (s : State)

/-! ### emit -/

@[simp] theorem emit_frameState (o : Output) : (emit o s).frameState = s.frameState := rfl
@[simp] theorem emit_readPos (o : Output) : (emit o s).readPos = s.readPos := rfl
@[simp] theorem emit_bytesToRead (o : Output) : (emit o s).bytesToRead = s.bytesToRead := rfl
@[simp] theorem emit_writeGate (o : Output) : (emit o s).writeGate = s.writeGate := rfl
@[simp] theorem emit_buf (o : Output) : (emit o s).buf = s.buf := rfl
@[simp] theorem emit_handler (o : Output) : (emit o s).handler = s.handler := rfl
@[simp] theorem emit_drvCfg (o : Output) : (emit o s).drvCfg = s.drvCfg := rfl
@[simp] theorem emit_configured (o : Output) : (emit o s).configured = s.configured := rfl
@[simp] theorem emit_opened (o : Output) : (emit o s).opened = s.opened := rfl
@[simp] theorem emit_rxReq (o : Output) : (emit o s).rxReq = s.rxReq := rfl
@[simp] theorem emit_txReq (o : Output) : (emit o s).txReq = s.txReq := rfl
@[simp] theorem emit_history (o : Output) : (emit o s).history = s.history ++ [o] := rfl
@[simp] theorem emit_params (o : Output) : (emit o s).params = s.params := rfl
@[simp] theorem emit_inputs (o : Output) : (emit o s).inputs = s.inputs := rfl
@[simp] theorem emit_handlerWindow (o : Output) : (emit o s).handlerWindow = s.handlerWindow := rfl

/-! ### resetFramer -/

@[simp] theorem resetFramer_frameState : (resetFramer s).frameState = .awaitingType := rfl
@[simp] theorem resetFramer_readPos : (resetFramer s).readPos = 0 := rfl
@[simp] theorem resetFramer_bytesToRead : (resetFramer s).bytesToRead = 1 := rfl
@[simp] theorem resetFramer_writeGate : (resetFramer s).writeGate = s.writeGate := rfl
@[simp] theorem resetFramer_buf : (resetFramer s).buf = s.buf := rfl
@[simp] theorem resetFramer_handler : (resetFramer s).handler = s.handler := rfl
@[simp] theorem resetFramer_drvCfg : (resetFramer s).drvCfg = s.drvCfg := rfl
@[simp] theorem resetFramer_configured : (resetFramer s).configured = s.configured := rfl
@[simp] theorem resetFramer_opened : (resetFramer s).opened = s.opened := rfl
@[simp] theorem resetFramer_rxReq : (resetFramer s).rxReq = s.rxReq := rfl
@[simp] theorem resetFramer_txReq : (resetFramer s).txReq = s.txReq := rfl
@[simp] theorem resetFramer_history : (resetFramer s).history = s.history := rfl
@[simp] theorem resetFramer_params : (resetFramer s).params = s.params := rfl
@[simp] theorem resetFramer_inputs : (resetFramer s).inputs = s.inputs := rfl
@[simp] theorem resetFramer_handlerWindow : (resetFramer s).handlerWindow = s.handlerWindow := rfl

/-! ### issueRead -/

@[simp] theorem issueRead_frameState : (issueRead s).frameState = s.frameState := rfl
@[simp] theorem issueRead_readPos : (issueRead s).readPos = s.readPos := rfl
@[simp] theorem issueRead_bytesToRead : (issueRead s).bytesToRead = s.bytesToRead := rfl
@[simp] theorem issueRead_writeGate : (issueRead s).writeGate = s.writeGate := rfl
@[simp] theorem issueRead_buf : (issueRead s).buf = s.buf := rfl
@[simp] theorem issueRead_handler : (issueRead s).handler = s.handler := rfl
@[simp] theorem issueRead_drvCfg : (issueRead s).drvCfg = s.drvCfg := rfl
@[simp] theorem issueRead_configured : (issueRead s).configured = s.configured := rfl
@[simp] theorem issueRead_opened : (issueRead s).opened = s.opened := rfl
@[simp] theorem issueRead_rxReq : (issueRead s).rxReq = some ⟨s.readPos, s.bytesToRead⟩ := rfl
@[simp] theorem issueRead_txReq : (issueRead s).txReq = s.txReq := rfl
@[simp] theorem issueRead_history :
    (issueRead s).history = s.history ++ [.readReq s.readPos s.bytesToRead] := rfl
@[simp] theorem issueRead_params : (issueRead s).params = s.params := rfl
@[simp] theorem issueRead_inputs : (issueRead s).inputs = s.inputs := rfl
@[simp] theorem issueRead_handlerWindow : (issueRead s).handlerWindow = s.handlerWindow := rfl

/-! ### dispatch -/

section
variable (ty : Byte) (r : DataRef) (n : Nat)
@[simp] theorem dispatch_frameState : (dispatch ty r n s).frameState = s.frameState := rfl
@[simp] theorem dispatch_readPos : (dispatch ty r n s).readPos = s.readPos := rfl
@[simp] theorem dispatch_bytesToRead : (dispatch ty r n s).bytesToRead = s.bytesToRead := rfl
@[simp] theorem dispatch_writeGate : (dispatch ty r n s).writeGate = s.writeGate := rfl
@[simp] theorem dispatch_buf : (dispatch ty r n s).buf = s.buf := rfl
@[simp] theorem dispatch_handler : (dispatch ty r n s).handler = s.handler := rfl
@[simp] theorem dispatch_drvCfg : (dispatch ty r n s).drvCfg = s.drvCfg := rfl
@[simp] theorem dispatch_configured : (dispatch ty r n s).configured = s.configured := rfl
@[simp] theorem dispatch_opened : (dispatch ty r n s).opened = s.opened := rfl
@[simp] theorem dispatch_rxReq : (dispatch ty r n s).rxReq = s.rxReq := rfl
@[simp] theorem dispatch_txReq : (dispatch ty r n s).txReq = s.txReq := rfl
@[simp] theorem dispatch_history :
    (dispatch ty r n s).history = s.history ++ [.dispatch s.handler ty r n] := rfl
@[simp] theorem dispatch_params : (dispatch ty r n s).params = s.params := rfl
@[simp] theorem dispatch_inputs : (dispatch ty r n s).inputs = s.inputs := rfl
@[simp] theorem dispatch_handlerWindow :
    (dispatch ty r n s).handlerWindow = s.handler.isRegistered := rfl
end

/-! ### expect -/

section
variable (n : Nat) (fs : FrameState)
@[simp] theorem expect_frameState : (expect n fs s).frameState = fs := rfl
@[simp] theorem expect_readPos : (expect n fs s).readPos = s.readPos := rfl
@[simp] theorem expect_bytesToRead : (expect n fs s).bytesToRead = n := rfl
@[simp] theorem expect_writeGate : (expect n fs s).writeGate = s.writeGate := rfl
@[simp] theorem expect_buf : (expect n fs s).buf = s.buf := rfl
@[simp] theorem expect_handler : (expect n fs s).handler = s.handler := rfl
@[simp] theorem expect_drvCfg : (expect n fs s).drvCfg = s.drvCfg := rfl
@[simp] theorem expect_configured : (expect n fs s).configured = s.configured := rfl
@[simp] theorem expect_opened : (expect n fs s).opened = s.opened := rfl
@[simp] theorem expect_rxReq : (expect n fs s).rxReq = s.rxReq := rfl
@[simp] theorem expect_txReq : (expect n fs s).txReq = s.txReq := rfl
@[simp] theorem expect_history : (expect n fs s).history = s.history := rfl
@[simp] theorem expect_params : (expect n fs s).params = s.params := rfl
@[simp] theorem expect_inputs : (expect n fs s).inputs = s.inputs := rfl
@[simp] theorem expect_handlerWindow : (expect n fs s).handlerWindow = s.handlerWindow := rfl
end

/-! ### raiseCause -/

section
variable (c : Cause)
@[simp] theorem raiseCause_frameState : (raiseCause c s).frameState = .awaitingType := rfl
@[simp] theorem raiseCause_readPos : (raiseCause c s).readPos = 0 := rfl
@[simp] theorem raiseCause_bytesToRead : (raiseCause c s).bytesToRead = 1 := rfl
@[simp] theorem raiseCause_writeGate : (raiseCause c s).writeGate = s.writeGate := rfl
@[simp] theorem raiseCause_buf : (raiseCause c s).buf = s.buf := rfl
@[simp] theorem raiseCause_handler : (raiseCause c s).handler = s.handler := rfl
@[simp] theorem raiseCause_drvCfg : (raiseCause c s).drvCfg = s.drvCfg := rfl
@[simp] theorem raiseCause_configured : (raiseCause c s).configured = s.configured := rfl
@[simp] theorem raiseCause_opened : (raiseCause c s).opened = s.opened := rfl
@[simp] theorem raiseCause_rxReq : (raiseCause c s).rxReq = s.rxReq := rfl
@[simp] theorem raiseCause_txReq : (raiseCause c s).txReq = s.txReq := rfl
@[simp] theorem raiseCause_history : (raiseCause c s).history = s.history ++ [.log c] := rfl
@[simp] theorem raiseCause_params : (raiseCause c s).params = s.params := rfl
@[simp] theorem raiseCause_inputs : (raiseCause c s).inputs = s.inputs := rfl
@[simp] theorem raiseCause_handlerWindow : (raiseCause c s).handlerWindow = s.handlerWindow := rfl
end

/-! ### Flag and buffer updates -/

@[simp] theorem setGate_writeGate : (setGate s).writeGate = true := rfl
@[simp] theorem clearGate_writeGate : (clearGate s).writeGate = false := rfl
@[simp] theorem setGate_buf : (setGate s).buf = s.buf := rfl
@[simp] theorem memFill_buf (a : Nat) (d : List Byte) : (memFill a d s).buf = Memory.fill s.buf a d := rfl
@[simp] theorem memWrite_buf (a : Nat) (v : Byte) : (memWrite a v s).buf = Memory.set s.buf a v := rfl

/-! ### Byte accessors depend on the buffer only -/

theorem byteAt_congr {s t : State} (a : Nat) (h : Memory.read s.buf a = Memory.read t.buf a) :
    s.byteAt a = t.byteAt a := by simp [State.byteAt, h]

theorem bytesAt_congr {s t : State} (a n : Nat)
    (h : ∀ x, a ≤ x → x < a + n → Memory.read s.buf x = Memory.read t.buf x) :
    s.bytesAt a n = t.bytesAt a n := by
  induction n generalizing a with
  | zero => rfl
  | succ n ih =>
    simp only [State.bytesAt]
    rw [byteAt_congr a (h a (Nat.le_refl a) (by omega)), ih (a + 1) (fun x h1 h2 => h x (by omega) (by omega))]

@[simp] theorem bytesAt_length (a n : Nat) : (s.bytesAt a n).length = n := by
  induction n generalizing a with
  | zero => rfl
  | succ n ih => simp [State.bytesAt, ih]

/-- The bytes at the place a block was stored are the block. -/
theorem bytesAt_of_read (a : Nat) (d : List Byte)
    (h : ∀ i, i < d.length → Memory.read s.buf (a + i) = d[i]?) : s.bytesAt a d.length = d := by
  induction d generalizing a with
  | nil => rfl
  | cons v d ih =>
    have h0 := h 0 (by simp)
    simp only [Nat.add_zero, List.getElem?_cons_zero] at h0
    simp only [List.length_cons, State.bytesAt]
    rw [ih (a + 1) (fun i hi => by
      have := h (i + 1) (by simpa using hi)
      rw [List.getElem?_cons_succ] at this
      rw [← this]; congr 1; omega)]
    simp [State.byteAt, h0]

theorem bytesAt_append (a m n : Nat) : s.bytesAt a (m + n) = s.bytesAt a m ++ s.bytesAt (a + m) n := by
  induction m generalizing a with
  | zero => simp [State.bytesAt]
  | succ m ih =>
    have h1 : m + 1 + n = (m + n) + 1 := by omega
    have h2 : a + (m + 1) = a + 1 + m := by omega
    rw [h1, h2]
    simp [State.bytesAt, ih]

end Sys2Proof.Machine
end

