-- ==== Sys2Proof/Laws/Ops.lean ====
section
/-! SUPPORT. One lemma per shared operation: everything it can do. -/

namespace Sys2Proof.Machine

/-- An admitted operation is the operation; one that answers next was admitted. -/
theorem ifAdmitted_next {s t : State} {k : Result} (h : ifAdmitted s k = .next t) :
    s.params.admitted = true ∧ k = .next t := by
  unfold ifAdmitted at h
  split at h
  · exact ⟨‹_›, h⟩
  · cases h

theorem ifAdmitted_of {s : State} (h : s.params.admitted = true) (k : Result) : ifAdmitted s k = k := by
  simp [ifAdmitted, h]

theorem Params.admitted_iff (p : Params) :
    p.admitted = true ↔ 258 ≤ p.mps ∧ p.tagSco ≠ tagEvent ∧ p.tagSco ≠ tagAcl := by
  simp [Params.admitted]

/-- The state after the precondition and step 1 of RX_DONE (R112). -/
def accepted (q : ReadRequest) (d : List Byte) (s : State) : State :=
  { s with buf := Memory.fill s.buf (s.phys q.pos) d, rxReq := none, readPos := s.readPos + s.bytesToRead }

section
variable (q : ReadRequest) (d : List Byte) (s : State)
@[simp] theorem accepted_frameState : (accepted q d s).frameState = s.frameState := rfl
@[simp] theorem accepted_readPos : (accepted q d s).readPos = s.readPos + s.bytesToRead := rfl
@[simp] theorem accepted_bytesToRead : (accepted q d s).bytesToRead = s.bytesToRead := rfl
@[simp] theorem accepted_writeGate : (accepted q d s).writeGate = s.writeGate := rfl
@[simp] theorem accepted_buf : (accepted q d s).buf = Memory.fill s.buf (s.phys q.pos) d := rfl
@[simp] theorem accepted_handler : (accepted q d s).handler = s.handler := rfl
@[simp] theorem accepted_drvCfg : (accepted q d s).drvCfg = s.drvCfg := rfl
@[simp] theorem accepted_configured : (accepted q d s).configured = s.configured := rfl
@[simp] theorem accepted_opened : (accepted q d s).opened = s.opened := rfl
@[simp] theorem accepted_rxReq : (accepted q d s).rxReq = none := rfl
@[simp] theorem accepted_txReq : (accepted q d s).txReq = s.txReq := rfl
@[simp] theorem accepted_history : (accepted q d s).history = s.history := rfl
@[simp] theorem accepted_params : (accepted q d s).params = s.params := rfl
@[simp] theorem accepted_inputs : (accepted q d s).inputs = s.inputs := rfl
@[simp] theorem accepted_handlerWindow : (accepted q d s).handlerWindow = s.handlerWindow := rfl
end

/-- What an accepted block met and did. -/
theorem acceptBlock_ok {fs : FrameState} {d : List Byte} {s s1 : State} (h : acceptBlock fs d s = .ok s1) :
    ∃ q, s.opened = true ∧ s.rxReq = some q ∧ d.length = q.n ∧
      (q.n = 0 → s.params.zeroReadCompletes = true) ∧ s.frameState = fs ∧ s.phys q.pos + q.n ≤ s.params.cap ∧
      s1 = accepted q d s := by
  unfold acceptBlock at h
  by_cases h1 : s.opened = false
  · rw [if_pos h1] at h; cases h
  rw [if_neg h1] at h
  cases hq : s.rxReq with
  | none => simp [hq] at h
  | some q =>
    simp only [hq] at h
    split_ifs at h with h2 h3 h4 h5
    refine ⟨q, by simpa using h1, rfl, by simpa using h2, ?_, by simpa using h4, by omega, ?_⟩
    · intro hz
      by_contra hc
      exact h3 ⟨hz, by simpa using hc⟩
    · cases h; rfl

/-- A block that meets the precondition of R112 is accepted. -/
theorem acceptBlock_of {fs : FrameState} {d : List Byte} {s : State} {q : ReadRequest}
    (ho : s.opened = true) (hr : s.rxReq = some q) (hl : d.length = q.n)
    (hz : q.n = 0 → s.params.zeroReadCompletes = true) (hf : s.frameState = fs)
    (hc : s.phys q.pos + q.n ≤ s.params.cap) :
    acceptBlock fs d s = .ok (accepted q d s) := by
  have hz' : ¬ (q.n = 0 ∧ s.params.zeroReadCompletes = false) := by
    rintro ⟨h1, h2⟩; simp [hz h1] at h2
  have hc' : ¬ (s.phys q.pos + q.n > s.params.cap) := by omega
  simp only [acceptBlock, hr, if_neg hz', if_neg hc']
  simp [memFill, accepted, ho, hl, hf]

/-- An RX_DONE that answers next: the block was accepted, the case ran, the next read is issued. -/
theorem rxDone_next {fs : FrameState} {d : List Byte} {body : State → Except Fault State} {s t : State}
    (h : rxDone fs d body s = .next t) :
    ∃ s1 s2, s.params.admitted = true ∧ acceptBlock fs d s = .ok s1 ∧ body s1 = .ok s2 ∧ t = issueRead s2 := by
  obtain ⟨ha, h⟩ := ifAdmitted_next h
  split at h
  · cases h
  · rename_i s1 h1
    split at h
    · cases h
    · rename_i s2 h2
      exact ⟨s1, s2, ha, h1, h2, by cases h; rfl⟩

theorem rxDone_of {fs : FrameState} {d : List Byte} {body : State → Except Fault State} {s s1 s2 : State}
    (ha : s.params.admitted = true) (h1 : acceptBlock fs d s = .ok s1) (h2 : body s1 = .ok s2) :
    rxDone fs d body s = .next (issueRead s2) := by
  simp [rxDone, ifAdmitted_of ha, h1, h2]

/-- A wire row that answers next ran as RX_DONE of its one byte at `L[0]`. -/
theorem tagArrives_next {b : Byte} {k : State → State} {s t : State} (h : tagArrives b k s = .next t) :
    s.rxReq = some ⟨0, 1⟩ ∧ rxDone .awaitingType [b] (fun s1 => .ok (k s1)) s = .next t := by
  obtain ⟨ha, h⟩ := ifAdmitted_next h
  split_ifs at h with h1
  exact ⟨by simpa using h1, h⟩

theorem tagArrives_of {b : Byte} {k : State → State} {s : State}
    (ha : s.params.admitted = true) (h : s.rxReq = some ⟨0, 1⟩) :
    tagArrives b k s = rxDone .awaitingType [b] (fun s1 => .ok (k s1)) s := by
  simp [tagArrives, ifAdmitted_of ha, h]

/-- What the payload case did. -/
theorem payloadCase_ok {s s2 : State} (h : payloadCase s = .ok s2) :
    s.readPos ≤ 1 + s.params.mps ∧
    s2 = resetFramer (dispatch (s.logical 0)
      (.inBuf (s.phys 1) (s.bytesAt (s.phys 1) (s.readPos - 1))) (s.readPos - 1) s) := by
  unfold payloadCase at h
  split_ifs at h with h1
  cases h
  exact ⟨by omega, rfl⟩

theorem payloadCase_of {s : State} (h : s.readPos ≤ 1 + s.params.mps) :
    payloadCase s = .ok (resetFramer (dispatch (s.logical 0)
      (.inBuf (s.phys 1) (s.bytesAt (s.phys 1) (s.readPos - 1))) (s.readPos - 1) s)) := by
  unfold payloadCase
  rw [if_neg (by omega)]

/-- A logical range inside the view is a physical range inside `BUF` (R24, R51). -/
theorem phys_range {s : State} {pos n : Nat} (h : pos + n ≤ 1 + s.params.mps) : s.phys pos + n ≤ s.params.cap := by
  simp only [State.phys, Params.cap]
  omega

/-- What a store that answers next met and did. -/
theorem consumerStore_next {a : Nat} {d : List Byte} {s t : State} (h : consumerStore a d s = .next t) :
    s.params.admitted = true ∧ a + d.length ≤ s.params.cap ∧
    (Window.mk a (a + d.length)).meets (rxWindow s) = false ∧
    (Window.mk a (a + d.length)).meets (txWindow s) = false ∧
    t = { s with buf := Memory.fill s.buf a d } := by
  obtain ⟨ha, h⟩ := ifAdmitted_next h
  split_ifs at h with h1 h2 h3
  cases h
  exact ⟨ha, by omega, by simpa using h2, by simpa using h3, rfl⟩

/-- What a send that answers next met. -/
theorem execSendPacket_next {t : Byte} {p n : Nat} {s s' : State} (h : execSendPacket t p n s = .next s') :
    s.params.admitted = true ∧ s.writeGate = false ∧ s.opened = true ∧ 1 ≤ p ∧ p ≤ s.params.pb ∧
    n ≤ s.params.mps ∧ p + n ≤ s.params.cap ∧ (sendWindow p n).meets (rxWindow s) = false ∧
    s' = startTransmit t p n s := by
  obtain ⟨ha, h⟩ := ifAdmitted_next h
  split_ifs at h with h1 h2 h3 h4 h5
  cases h
  exact ⟨ha, by simpa using h1, by simpa using h2, h3.1, h3.2, h4.1, h4.2, by simpa using h5, rfl⟩

theorem execTxDone_next {s t : State} (h : execTxDone s = .next t) :
    s.params.admitted = true ∧ s.opened = true ∧ s.txReq.isSome = true ∧
    t = dispatch tagEvent (.const [s.params.sentCode, 0x00]) 2 { clearGate s with txReq := none } := by
  obtain ⟨ha, h⟩ := ifAdmitted_next h
  split_ifs at h with h1 h2
  cases h
  exact ⟨ha, by simpa using h1, Option.isSome_iff_ne_none.2 h2, rfl⟩

theorem execOpen_next {rc : Int} {s t : State} (h : execOpen rc s = .next t) :
    s.params.admitted = true ∧ s.opened = false ∧ s.configured = true ∧
    ((rc ≠ 0 ∧ t = emit (.returnInt rc) (emit .drvOpen s)) ∨
     (rc = 0 ∧ t = emit (.returnInt 0)
      (issueRead (resetFramer (clearGate { emit .drvOpen s with opened := true }))))) := by
  obtain ⟨ha, h⟩ := ifAdmitted_next h
  split_ifs at h with h1 h2 h3
  · cases h
    exact ⟨ha, by simpa using h1, by simpa using h2, .inl ⟨h3, rfl⟩⟩
  · cases h
    exact ⟨ha, by simpa using h1, by simpa using h2, .inr ⟨by simpa using h3, rfl⟩⟩

theorem execClose_next {rc : Int} {s t : State} (h : execClose rc s = .next t) :
    s.params.admitted = true ∧ s.opened = true ∧
    t = emit (.returnInt rc)
      { clearGate (emit .drvClose s) with opened := false, rxReq := none, txReq := none } := by
  obtain ⟨ha, h⟩ := ifAdmitted_next h
  split_ifs at h with h1
  cases h
  exact ⟨ha, by simpa using h1, rfl⟩

theorem execInit_next {cfg : InitConfig} {s t : State} (h : execInit cfg s = .next t) :
    s.params.admitted = true ∧ s.opened = false ∧
    ((∃ c, cfg = .uart c ∧ t = emit (.drvConfigure c) { s with drvCfg := c, configured := true }) ∨
     ((∀ c, cfg ≠ .uart c) ∧ t = emit (.log .configError) s)) := by
  obtain ⟨ha, h⟩ := ifAdmitted_next h
  split_ifs at h with h1
  refine ⟨ha, by simpa using h1, ?_⟩
  cases cfg with
  | missing => exact .inr ⟨by simp, by cases h; rfl⟩
  | wrongKind => exact .inr ⟨by simp, by cases h; rfl⟩
  | uart c => exact .inl ⟨c, rfl, by cases h; rfl⟩

theorem execSetBaudrate_next {r : Nat} {rc : Int} {s t : State} (h : execSetBaudrate r rc s = .next t) :
    s.params.admitted = true ∧ s.configured = true ∧
    t = emit (.returnInt rc) (emit (.drvSetBaudrate r) s) := by
  obtain ⟨ha, h⟩ := ifAdmitted_next h
  split_ifs at h with h1
  cases h
  exact ⟨ha, by simpa using h1, rfl⟩

end Sys2Proof.Machine
end

