-- ==== Sys2Proof/Laws/Exec.lean ====
section
/-! SUPPORT. What a step of the receive path can do, said once: the block is accepted, then the framer latches a size, or
raises a cause, or dispatches, and the next read is issued. -/

namespace Sys2Proof.Machine

/-- The four ways the framer's case can end, on the state `s1` with the block in the buffer. -/
inductive FrameCase (fs : FrameState) (s1 : State) : State → Prop where
  /-- A tag was recognised (R113). -/
  | header (n : Nat) (fs' : FrameState) (hfs : fs = .awaitingType)
      (hn : (n = 2 ∧ fs' = .awaitingEventHeader ∧ s1.logical 0 = tagEvent) ∨
            (n = 4 ∧ fs' = .awaitingAclHeader ∧ s1.logical 0 = tagAcl) ∨
            (n = 3 ∧ fs' = .awaitingScoHeader ∧ s1.logical 0 = s1.params.tagSco)) :
      FrameCase fs s1 (expect n fs' s1)
  /-- A header was read (R114 to R116). -/
  | length (n : Nat)
      (hn : (fs = .awaitingEventHeader ∧ n = eventLen s1) ∨
            (fs = .awaitingAclHeader ∧ n = aclLen s1 ∧ 4 + n ≤ s1.params.mps) ∨
            (fs = .awaitingScoHeader ∧ n = scoLen s1)) :
      FrameCase fs s1 (expect n .awaitingPayload s1)
  /-- An error (R113, R115). -/
  | cause (c : Cause)
      (hc : (fs = .awaitingType ∧ c = .invalidTypeTag (s1.logical 0)) ∨
            (fs = .awaitingAclHeader ∧ c = .aclLengthExceedsCapacity (aclLen s1) ∧ s1.params.mps < 4 + aclLen s1)) :
      FrameCase fs s1 (raiseCause c s1)
  /-- A packet is complete (R117). -/
  | packet (hfs : fs = .awaitingPayload) (hr : s1.readPos ≤ 1 + s1.params.mps) :
      FrameCase fs s1 (resetFramer (dispatch (s1.logical 0)
        (.inBuf (s1.phys 1) (s1.bytesAt (s1.phys 1) (s1.readPos - 1))) (s1.readPos - 1) s1))

/-- Everything a receive step that answers next met and did. -/
structure ReceiveStep (s t : State) where
  q : ReadRequest
  d : List Byte
  s2 : State
  admitted : s.params.admitted = true
  opened : s.opened = true
  request : s.rxReq = some q
  size : d.length = q.n
  zero : q.n = 0 → s.params.zeroReadCompletes = true
  range : s.phys q.pos + q.n ≤ s.params.cap
  frameCase : FrameCase s.frameState (accepted q d s) s2
  result : t = issueRead s2

theorem rxDone_receiveStep {fs : FrameState} {d : List Byte} {body : State → Except Fault State} {s t : State}
    (hb : ∀ q s2, s.rxReq = some q → body (accepted q d s) = .ok s2 → FrameCase fs (accepted q d s) s2)
    (h : rxDone fs d body s = .next t) : Nonempty (ReceiveStep s t) := by
  obtain ⟨s1, s2, ha, h1, h2, ht⟩ := rxDone_next h
  obtain ⟨q, ho, hr, hl, hz, hf, hc, rfl⟩ := acceptBlock_ok h1
  subst hf
  exact ⟨⟨q, d, s2, ha, ho, hr, hl, hz, hc, hb q s2 hr h2, ht⟩⟩

/-- The tag byte of an accepted tag read is at `L[0]`. -/
theorem accepted_tag (b : Byte) (s : State) : (accepted ⟨0, 1⟩ [b] s).logical 0 = b := by
  simp [State.logical, State.byteAt, State.phys, Memory.read_fill]

theorem tagArrives_receiveStep {b : Byte} {k : State → State} {s t : State}
    (hk : ∀ s1, s1.logical 0 = b → s1.params = s.params → FrameCase .awaitingType s1 (k s1))
    (h : tagArrives b k s = .next t) : Nonempty (ReceiveStep s t) := by
  obtain ⟨hr, h⟩ := tagArrives_next h
  refine rxDone_receiveStep (fun q s2 hq h2 => ?_) h
  rw [hr] at hq
  cases hq
  cases h2
  exact hk _ (accepted_tag b s) rfl

theorem typeCase_frameCase (s1 : State) : FrameCase .awaitingType s1 (typeCase s1) := by
  unfold typeCase
  cases hk : tagKind s1.params (s1.logical 0) with
  | event => exact .header _ _ rfl (.inl ⟨rfl, rfl, tagKind_eq_event.1 hk⟩)
  | acl => exact .header _ _ rfl (.inr (.inl ⟨rfl, rfl, tagKind_eq_acl hk⟩))
  | sco => exact .header _ _ rfl (.inr (.inr ⟨rfl, rfl, tagKind_eq_sco hk⟩))
  | invalid => exact .cause _ (.inl ⟨rfl, rfl⟩)

theorem aclCase_frameCase (s1 : State) : FrameCase .awaitingAclHeader s1 (aclCase s1) := by
  unfold aclCase
  split
  · rename_i h
    exact .length _ (.inr (.inl ⟨rfl, rfl, by simp only [aclFits, decide_eq_true_eq] at h; exact h⟩))
  · rename_i h
    exact .cause _ (.inr ⟨rfl, rfl, by simp only [aclFits, decide_eq_true_eq, Nat.not_le] at h; exact h⟩)

theorem payloadCase_frameCase {s1 s2 : State} (h : payloadCase s1 = .ok s2) : FrameCase .awaitingPayload s1 s2 := by
  obtain ⟨hr, rfl⟩ := payloadCase_ok h
  exact .packet rfl hr

/-- Every receive instruction that answers next is a receive step. -/
theorem exec_receiveStep {i : Instr} {s t : State} (hi : isReceive i = true) (h : exec i s = .next t) :
    Nonempty (ReceiveStep s t) := by
  cases i <;> simp only [isReceive, Bool.false_eq_true] at hi
  case pktEvent =>
    exact tagArrives_receiveStep (fun s1 h1 _ => .header _ _ rfl (.inl ⟨rfl, rfl, h1⟩)) h
  case pktAcl =>
    exact tagArrives_receiveStep (fun s1 h1 _ => .header _ _ rfl (.inr (.inl ⟨rfl, rfl, h1⟩))) h
  case pktSco =>
    exact tagArrives_receiveStep (fun s1 h1 h2 => .header _ _ rfl (.inr (.inr ⟨rfl, rfl, h2 ▸ h1⟩))) h
  case pktInvalid b =>
    exact tagArrives_receiveStep (fun s1 h1 _ => .cause _ (.inl ⟨rfl, by rw [h1]⟩)) h
  case rxDoneType d =>
    refine rxDone_receiveStep (fs := .awaitingType) (body := fun s1 => .ok (typeCase s1)) (fun q s2 _ h => ?_) h
    cases h; exact typeCase_frameCase _
  case rxDoneEvtHdr d =>
    refine rxDone_receiveStep (fs := .awaitingEventHeader)
      (body := fun s1 => .ok (expect (eventLen s1) .awaitingPayload s1)) (fun q s2 _ h => ?_) h
    cases h; exact .length _ (.inl ⟨rfl, rfl⟩)
  case rxDoneAclHdr d =>
    refine rxDone_receiveStep (fs := .awaitingAclHeader) (body := fun s1 => .ok (aclCase s1)) (fun q s2 _ h => ?_) h
    cases h; exact aclCase_frameCase _
  case rxDoneScoHdr d =>
    refine rxDone_receiveStep (fs := .awaitingScoHeader)
      (body := fun s1 => .ok (expect (scoLen s1) .awaitingPayload s1)) (fun q s2 _ h => ?_) h
    cases h; exact .length _ (.inr (.inr ⟨rfl, rfl⟩))
  case rxDonePayload d =>
    exact rxDone_receiveStep (fun q s2 _ h => payloadCase_frameCase h) h

/-- Everything a step that answers next can be: nothing, an instruction on the state with its input taken, or a store. -/
theorem step_cases {s t : State} (h : step s = .next t) :
    (s.inputs = [] ∧ t = s) ∨
    (∃ i rest w, exec i { s with inputs := rest, handlerWindow := w } = .next t) ∨
    (∃ a d rest, consumerStore a d { s with inputs := rest } = .next t) := by
  unfold step acceptInput at h
  cases hin : s.inputs with
  | nil =>
    simp only [hin] at h
    cases h
    exact .inl ⟨rfl, rfl⟩
  | cons x rest =>
    cases x with
    | wire b =>
      simp only [hin] at h
      cases hd : decode s.params (.wire b) with
      | error e => simp [hd] at h
      | ok i => simp only [hd] at h; exact .inr (.inl ⟨i, rest, false, h⟩)
    | port op x =>
      simp only [hin] at h
      cases hd : decode s.params (presented op x s) with
      | error e => simp [hd] at h
      | ok i => simp only [hd] at h; exact .inr (.inl ⟨i, rest, false, h⟩)
    | fromHandler op x =>
      simp only [hin] at h
      cases hd : decode s.params (presented op x s) with
      | error e => simp [hd] at h
      | ok i =>
        simp only [hd, acceptFromHandler] at h
        cases hc : callerOf i <;> cases hw : s.handlerWindow <;> simp only [hc, hw] at h <;> try cases h
        exact .inr (.inl ⟨i, rest, true, hw ▸ h⟩)
    | store a d =>
      simp only [hin] at h
      exact .inr (.inr ⟨a, d, rest, h⟩)

/-! ### FEED -/

/-- The RX_DONE word formed in a frame state decodes to that state's row (R91). -/
theorem decode_rxRow (p : Params) (fs : FrameState) (d : List Byte) :
    decode p (.port (selWord 8 fs.code) (.block d)) = .ok (rxRow fs d) := by
  cases fs <;> rfl

/-- The line `RX d` runs the row of the current frame state, the handler's turn over. -/
theorem performRx_eq (d : List Byte) (s : State) :
    performRx d s = exec (rxRow s.frameState d) { s with handlerWindow := false } := by
  have h := decode_rxRow s.params s.frameState d
  simp only [performRx, step, acceptInput, presented, h]

/-- One turn of FEED that answers next takes the outstanding block off the front of the stream. -/
theorem feedFuel_turn {s s1 : State} {q : ReadRequest} {d : List Byte} (hq : s.rxReq = some q) (hl : d.length = q.n)
    (h : performRx d s = .next s1) (f : Nat) (rest : List Byte) :
    feedFuel (f + 1) (d ++ rest) s = feedFuel f rest s1 := by
  simp only [feedFuel, hq]
  by_cases h0 : q.n = 0
  · obtain rfl : d = [] := List.eq_nil_of_length_eq_zero (by omega)
    simp [h0, h]
  · have h1 : d ++ rest ≠ [] := by
      rintro e
      simp [(List.append_eq_nil_iff.1 e).1] at hl
      omega
    have h2 : ¬ (d ++ rest).length < q.n := by simp only [List.length_append]; omega
    rw [if_neg h0, if_neg h1, if_neg h2, ← hl, List.take_left', List.drop_left', h] <;> rfl

end Sys2Proof.Machine
end

