-- ==== Sys2Proof/Laws/PerInstr.lean ====
section
/-! SUPPORT. The family RowWord: an instruction's encoding lies in the row of its own mnemonic in spec/opcode_table.json. -/

namespace Sys2Proof.Laws.RowWord

/-- The mnemonic of an instruction's row, as the table spells it. -/
def mnemonic : Instr → String
  | .pktEvent => "PKT_EVENT"
  | .pktAcl => "PKT_ACL"
  | .pktSco => "PKT_SCO"
  | .pktInvalid _ => "PKT_INVALID"
  | .initOp _ => "INIT"
  | .openOp _ => "OPEN"
  | .closeOp _ => "CLOSE"
  | .registerHandler _ => "REGISTER_PACKET_HANDLER"
  | .canSendNow _ => "CAN_SEND_NOW"
  | .sendPacket _ _ _ => "SEND_PACKET"
  | .setBaudrate _ _ => "SET_BAUDRATE"
  | .rxDoneType _ => "RX_DONE.TYPE"
  | .rxDoneEvtHdr _ => "RX_DONE.EVT_HDR"
  | .rxDoneAclHdr _ => "RX_DONE.ACL_HDR"
  | .rxDoneScoHdr _ => "RX_DONE.SCO_HDR"
  | .rxDonePayload _ => "RX_DONE.PAYLOAD"
  | .txDone => "TX_DONE"

/-- The table row of a code, by the table's match and mask columns, written out again. -/
def rowOf (p : Params) : Code → String
  | .wire b =>
    if b = 0x04 then "PKT_EVENT" else if b = 0x02 then "PKT_ACL" else if b = p.tagSco then "PKT_SCO" else "PKT_INVALID"
  | .port sel _ =>
    if sel &&& 0x78 = 0x00 then "INIT" else if sel &&& 0x78 = 0x08 then "OPEN" else if sel &&& 0x78 = 0x10 then "CLOSE"
    else if sel &&& 0x78 = 0x18 then "REGISTER_PACKET_HANDLER" else if sel &&& 0x78 = 0x20 then "CAN_SEND_NOW"
    else if sel &&& 0x78 = 0x28 then "SEND_PACKET" else if sel &&& 0x78 = 0x30 then "SET_BAUDRATE"
    else if sel = 0x40 then "RX_DONE.TYPE" else if sel = 0x41 then "RX_DONE.EVT_HDR"
    else if sel = 0x42 then "RX_DONE.ACL_HDR" else if sel = 0x43 then "RX_DONE.SCO_HDR"
    else if sel = 0x44 then "RX_DONE.PAYLOAD" else if sel &&& 0x78 = 0x48 then "TX_DONE" else ""

/-- The encoding of a well-formed instruction lies in its own row. -/
def Statement (i : Instr) : Prop :=
  ∀ p : Params, p.admitted = true → i.wellFormed p = true → rowOf p (encode p i) = mnemonic i

theorem pktEvent : Statement .pktEvent := fun _ _ _ => rfl
theorem pktAcl : Statement .pktAcl := fun _ _ _ => rfl
theorem pktSco : Statement .pktSco := by
  intro p h _
  have h1 : p.tagSco ≠ 0x04 := fun e => absurd h (by simp [Params.admitted, tagEvent, e])
  have h2 : p.tagSco ≠ 0x02 := fun e => absurd h (by simp [Params.admitted, tagAcl, e])
  simp only [rowOf, encode, mnemonic, if_neg h1, if_neg h2, if_true]
theorem pktInvalid (t : Byte) : Statement (.pktInvalid t) := by
  intro p _ h
  have h1 : t ≠ 0x04 := fun e => absurd h (by simp [Instr.wellFormed, tagEvent, e])
  have h2 : t ≠ 0x02 := fun e => absurd h (by simp [Instr.wellFormed, tagAcl, e])
  have h3 : t ≠ p.tagSco := fun e => absurd h (by simp [Instr.wellFormed, e])
  simp only [rowOf, encode, mnemonic, if_neg h1, if_neg h2, if_neg h3]
theorem initOp (cfg : InitConfig) : Statement (.initOp cfg) := fun _ _ _ => rfl
theorem openOp (rc : Int) : Statement (.openOp rc) := fun _ _ _ => rfl
theorem closeOp (rc : Int) : Statement (.closeOp rc) := fun _ _ _ => rfl
theorem registerHandler (h : Option Nat) : Statement (.registerHandler h) := fun _ _ _ => rfl
theorem canSendNow (t : Byte) : Statement (.canSendNow t) := fun _ _ _ => rfl
theorem sendPacket (t : Byte) (p n : Nat) : Statement (.sendPacket t p n) := fun _ _ _ => rfl
theorem setBaudrate (r : Nat) (rc : Int) : Statement (.setBaudrate r rc) := fun _ _ _ => rfl
theorem rxDoneType (d : List Byte) : Statement (.rxDoneType d) := fun _ _ _ => rfl
theorem rxDoneEvtHdr (d : List Byte) : Statement (.rxDoneEvtHdr d) := fun _ _ _ => rfl
theorem rxDoneAclHdr (d : List Byte) : Statement (.rxDoneAclHdr d) := fun _ _ _ => rfl
theorem rxDoneScoHdr (d : List Byte) : Statement (.rxDoneScoHdr d) := fun _ _ _ => rfl
theorem rxDonePayload (d : List Byte) : Statement (.rxDonePayload d) := fun _ _ _ => rfl
theorem txDone : Statement .txDone := fun _ _ _ => rfl

end Sys2Proof.Laws.RowWord
end

