-- ==== Sys2Proof/Tests/Slice0.lean ====
section
/-! SUPPORT. Tests. Expected results are the spec's: 30_encoding.md for the words, 95_test_vectors.md (V1 to V15) for the steps.
The last part shows, for each statement that has hypotheses, values that meet them together. -/

namespace Sys2Proof.Tests

open Sys2Proof Sys2Proof.Machine

/-! ### Helpers -/

/-- Open idle with a handler, the start state of the spec's vectors. -/
def idle : State := { toOpen .awaitingType 0 1 State.reset with handler := .registered 7 }

/-- Open, the read `(pos, n)` outstanding in a frame state, some bytes of the buffer written. -/
def waiting (fs : FrameState) (pos n : Nat) (buf : Memory) : State :=
  { toOpen fs pos n State.reset with handler := .registered 7, buf := buf }

def aeh : State := waiting .awaitingEventHeader 1 2 [(8, 0x04)]
def aah : State := waiting .awaitingAclHeader 1 4 [(8, 0x02)]
def ash : State := waiting .awaitingScoHeader 1 3 [(8, 0x03)]
/-- After `RX 04`, `RX 0E 02`. -/
def apEvent : State := waiting .awaitingPayload 3 2 [(8, 0x04), (9, 0x0E), (10, 0x02)]
/-- After `RX 03`, `RX 2A 00 00`. -/
def apSco0 : State := waiting .awaitingPayload 4 0 [(8, 0x03), (9, 0x2A), (10, 0x00), (11, 0x00)]
/-- After `RX 02`, `RX 01 20 00 01`: the longest ACL packet that fits. -/
def apAclFull : State := waiting .awaitingPayload 5 256 [(8, 0x02), (9, 0x01), (10, 0x20), (11, 0x00), (12, 0x01)]

/-- Configured, not open. -/
def configured : State := { State.reset with configured := true, handler := .registered 7 }

/-- A payload of three bytes at offset 1, as after `STORE @1: 03 0C 00`. -/
def stored : State := { idle with buf := [(1, 0x03), (2, 0x0C), (3, 0x00)] }

/-- A transmit in flight, as after `SEND t=01 p=1 n=3`. -/
def sending : State :=
  { idle with buf := [(0, 0x01), (1, 0x03), (2, 0x0C), (3, 0x00)], writeGate := true,
              txReq := some ⟨0, 4, [0x01, 0x03, 0x0C, 0x00]⟩ }

/-- Other parameters in a state. -/
def withParams (p : Params) (s : State) : State := { s with params := p }

def stateOf : Result → Option State
  | .next t => some t
  | .fault _ => none
  | .refused _ => none

def faultOf : Result → Option Fault
  | .next _ => none
  | .fault f => some f
  | .refused _ => none

def refusalOf : Result → Option Refusal
  | .next _ => none
  | .fault _ => none
  | .refused r => some r

/-- The framer and the outputs after a step from an empty history. -/
def framer (r : Result) : Option (FrameState × Nat × Nat × List Output) :=
  (stateOf r).map (fun t => (t.frameState, t.readPos, t.bytesToRead, t.history))

def isNext (r : Result) : Bool := (stateOf r).isSome

/-! ### WellFormed refuses each ill-formed term

P4's second half, `p + n <= CAP`, follows from P3 and its first half, so it refuses nothing alone. -/

theorem test_wf_pktInvalid_not_event : (Instr.pktInvalid 0x04).wellFormed Params.reference = false := by decide
theorem test_wf_pktInvalid_not_acl : (Instr.pktInvalid 0x02).wellFormed Params.reference = false := by decide
theorem test_wf_pktInvalid_not_sco : (Instr.pktInvalid 0x03).wellFormed Params.reference = false := by decide
theorem test_wf_send_no_tag_slot : (Instr.sendPacket 1 0 1).wellFormed Params.reference = false := by decide
theorem test_wf_send_tag_slot_past_pre_buffer : (Instr.sendPacket 1 9 0).wellFormed Params.reference = false := by decide
theorem test_wf_send_longer_than_mps : (Instr.sendPacket 1 1 261).wellFormed Params.reference = false := by decide
theorem test_wf_type_block : (Instr.rxDoneType []).wellFormed Params.reference = false := by decide
theorem test_wf_event_header_block : (Instr.rxDoneEvtHdr [0]).wellFormed Params.reference = false := by decide
theorem test_wf_acl_header_block : (Instr.rxDoneAclHdr [0, 0, 0]).wellFormed Params.reference = false := by decide
theorem test_wf_sco_header_block : (Instr.rxDoneScoHdr [0, 0, 0, 0]).wellFormed Params.reference = false := by decide
theorem test_wf_payload_block :
    (Instr.rxDonePayload (List.replicate 257 0)).wellFormed Params.reference = false := by
  simp only [Instr.wellFormed, List.length_replicate]; decide
theorem test_wf_event_packet : (Packet.event 0 (List.replicate 256 0)).wellFormed Params.reference = false := by
  simp only [Packet.wellFormed, List.length_replicate]; decide
theorem test_wf_sco_packet : (Packet.sco 0 0 (List.replicate 256 0)).wellFormed Params.reference = false := by
  simp only [Packet.wellFormed, List.length_replicate]; decide
theorem test_wf_acl_packet : (Packet.acl 0 0 (List.replicate 257 0)).wellFormed Params.reference = false := by
  simp only [Packet.wellFormed, List.length_replicate]; decide
/-- R7 and R8. -/
theorem test_admitted : (Params.mk 8 258 3 0x6E true).admitted = true ∧ (Params.mk 8 257 3 0x6E true).admitted = false ∧
    (Params.mk 8 260 0x04 0x6E true).admitted = false ∧ (Params.mk 8 260 0x02 0x6E true).admitted = false := by decide

/-! ### Decoding, from words written out by R81 and R91 (`SEL = 8 * OP + FS`) -/

theorem test_decode_pktEvent : decode Params.reference (.wire 0b00000100) = .ok .pktEvent := by decide
theorem test_decode_pktAcl : decode Params.reference (.wire 0b00000010) = .ok .pktAcl := by decide
theorem test_decode_pktSco : decode Params.reference (.wire 0b00000011) = .ok .pktSco := by decide
/-- R87: the command tag is invalid on receive. -/
theorem test_decode_pktInvalid : decode Params.reference (.wire 0b00000001) = .ok (.pktInvalid 0x01) := by decide
theorem test_decode_init : decode Params.reference (.port 0b0000000 (.config .missing)) = .ok (.initOp .missing) := by decide
theorem test_decode_open : decode Params.reference (.port 0b0001000 (.answer (-5))) = .ok (.openOp (-5)) := by decide
theorem test_decode_close : decode Params.reference (.port 0b0010000 (.answer 7)) = .ok (.closeOp 7) := by decide
theorem test_decode_register :
    decode Params.reference (.port 0b0011000 (.handler (some 7))) = .ok (.registerHandler (some 7)) := by decide
/-- The mask 0x78 ignores `FS`. -/
theorem test_decode_canSend : decode Params.reference (.port 0b0100100 (.tag 0xFF)) = .ok (.canSendNow 0xFF) := by decide
theorem test_decode_send : decode Params.reference (.port 0b0101000 (.send 1 1 3)) = .ok (.sendPacket 1 1 3) := by decide
theorem test_decode_setBaudrate :
    decode Params.reference (.port 0b0110000 (.rate 921600 22)) = .ok (.setBaudrate 921600 22) := by decide
theorem test_decode_rxType : decode Params.reference (.port 0b1000000 (.block [0x04])) = .ok (.rxDoneType [0x04]) := by decide
theorem test_decode_rxEvtHdr :
    decode Params.reference (.port 0b1000001 (.block [0x0E, 0x02])) = .ok (.rxDoneEvtHdr [0x0E, 0x02]) := by decide
theorem test_decode_rxAclHdr :
    decode Params.reference (.port 0b1000010 (.block [1, 0, 1, 0])) = .ok (.rxDoneAclHdr [1, 0, 1, 0]) := by decide
theorem test_decode_rxScoHdr :
    decode Params.reference (.port 0b1000011 (.block [0x2A, 0, 0])) = .ok (.rxDoneScoHdr [0x2A, 0, 0]) := by decide
theorem test_decode_rxPayload :
    decode Params.reference (.port 0b1000100 (.block [0xAB, 0xCD])) = .ok (.rxDonePayload [0xAB, 0xCD]) := by decide
theorem test_decode_txDone : decode Params.reference (.port 0b1001000 .nothing) = .ok .txDone := by decide
theorem test_decode_unassigned_op :
    decode Params.reference (.port 0b0111000 .nothing) = .error (.unassignedOperation 7) ∧
    decode Params.reference (.port 0b1010000 .nothing) = .error (.unassignedOperation 10) ∧
    decode Params.reference (.port 0b1111111 .nothing) = .error (.unassignedOperation 15) := by decide
theorem test_decode_unassigned_fs :
    decode Params.reference (.port 0b1000101 (.block [])) = .error (.unassignedFrameState 5) ∧
    decode Params.reference (.port 0b1000111 (.block [])) = .error (.unassignedFrameState 7) := by decide
theorem test_decode_operand : decode Params.reference (.port 0b0001000 .nothing) = .error (.operandMismatch .openLink) := by decide
/-- R92. -/
theorem test_frame_state_codes : FrameState.ofCode 0 = some .awaitingType ∧ FrameState.ofCode 1 = some .awaitingEventHeader ∧
    FrameState.ofCode 2 = some .awaitingAclHeader ∧ FrameState.ofCode 3 = some .awaitingScoHeader ∧
    FrameState.ofCode 4 = some .awaitingPayload ∧ FrameState.ofCode 5 = none ∧ FrameState.ofCode 7 = none := by decide

/-- X1 and X2 of V1 and V2, as packets. -/
theorem test_parse_event : parsePacket Params.reference [0x04, 0x0E, 0x02, 0xAB, 0xCD] =
    .ok (.event 0x0E [0xAB, 0xCD], []) := by decide
theorem test_parse_acl : parsePacket Params.reference [0x02, 0x01, 0x00, 0x01, 0x00, 0x99] =
    .ok (.acl 0x01 0x00 [0x99], []) := by decide
/-- S1 of V7, then one byte of the next packet. -/
theorem test_parse_sco : parsePacket Params.reference [0x03, 0x2A, 0x00, 0x00, 0x04] =
    .ok (.sco 0x2A 0x00 [], [0x04]) := by decide
/-- A3 of V6. -/
theorem test_parse_acl_too_long : parsePacket Params.reference [0x02, 0x01, 0x20, 0x01, 0x01] =
    .error (.aclLengthExceedsCapacity 257) := by decide

/-! ### The table's words run from reset -/

/-- The first step after reset with a word presented answers next. -/
def runsFromReset (nbits w : Nat) : Bool := isNext (step (State.reset.withFetchWord nbits w))

theorem test_wire_words_run : runsFromReset 8 0x04 = true ∧ runsFromReset 8 0x02 = true ∧ runsFromReset 8 0x03 = true ∧
    runsFromReset 8 0xFF = true := by decide
theorem test_facade_words_run : runsFromReset 8 0x00 = true ∧ runsFromReset 8 0x08 = true ∧ runsFromReset 8 0x10 = true ∧
    runsFromReset 8 0x18 = true ∧ runsFromReset 8 0x30 = true := by decide
theorem test_send_words_run : runsFromReset 8 0x20 = true ∧ runsFromReset 8 0x28 = true ∧ runsFromReset 8 0x48 = true := by
  decide
theorem test_rx_words_run : runsFromReset 8 0x40 = true ∧ runsFromReset 8 0x41 = true ∧ runsFromReset 8 0x42 = true ∧
    runsFromReset 8 0x43 = true ∧ runsFromReset 8 0x44 = true := by decide
theorem test_seven_bit_words : decodeTableWord 7 0x04 = some (.initOp (.uart ⟨0, 0, 0⟩)) ∧
    decodeTableWord 7 0x4F = some .txDone ∧ decodeTableWord 7 0x38 = none := by decide

/-! ### Steps -/

/-- R36: nothing is requested, nothing happens. -/
theorem test_reset_waits : stateOf (step State.reset) = some State.reset := by decide

/-- T1 to T3, T6 of V4, as wire rows. -/
theorem test_pktEvent : framer (exec .pktEvent idle) = some (.awaitingEventHeader, 1, 2, [.readReq 1 2]) := by decide
theorem test_pktAcl : framer (exec .pktAcl idle) = some (.awaitingAclHeader, 1, 4, [.readReq 1 4]) := by decide
theorem test_pktSco : framer (exec .pktSco idle) = some (.awaitingScoHeader, 1, 3, [.readReq 1 3]) := by decide
theorem test_pktInvalid : framer (exec (.pktInvalid 0x05) idle) =
    some (.awaitingType, 0, 1, [.log (.invalidTypeTag 0x05), .readReq 0 1]) := by decide
/-- T8 and T9 of V4: with `TAG_SCO = 07`, 03 is invalid and 07 is the SCO tag. -/
theorem test_rxType_other_sco_tag :
    framer (exec (.rxDoneType [0x03]) (withParams ⟨8, 260, 7, 0x6E, true⟩ idle)) =
      some (.awaitingType, 0, 1, [.log (.invalidTypeTag 0x03), .readReq 0 1]) ∧
    framer (exec (.rxDoneType [0x07]) (withParams ⟨8, 260, 7, 0x6E, true⟩ idle)) =
      some (.awaitingScoHeader, 1, 3, [.readReq 1 3]) := by decide
/-- The byte stays at `L[0]` also in an error row (V4). -/
theorem test_rxType_byte_stays : (stateOf (exec (.rxDoneType [0xFF]) idle)).map State.buf = some [(8, 0xFF)] := by decide
/-- E1 and E3 of V5. -/
theorem test_rxEvtHdr : framer (exec (.rxDoneEvtHdr [0x0E, 0x00]) aeh) = some (.awaitingPayload, 3, 0, [.readReq 3 0]) ∧
    framer (exec (.rxDoneEvtHdr [0xFF, 0x01]) aeh) = some (.awaitingPayload, 3, 1, [.readReq 3 1]) := by decide
/-- A2, A3 and the byte order vectors A5, A6 of V6. -/
theorem test_rxAclHdr_bound :
    framer (exec (.rxDoneAclHdr [0x01, 0x20, 0x00, 0x01]) aah) = some (.awaitingPayload, 5, 256, [.readReq 5 256]) ∧
    framer (exec (.rxDoneAclHdr [0x01, 0x20, 0x01, 0x01]) aah) =
      some (.awaitingType, 0, 1, [.log (.aclLengthExceedsCapacity 257), .readReq 0 1]) := by decide
theorem test_rxAclHdr_byte_order :
    framer (exec (.rxDoneAclHdr [0, 0, 1, 0]) aah) = some (.awaitingPayload, 5, 1, [.readReq 5 1]) ∧
    framer (exec (.rxDoneAclHdr [0, 0, 0, 1]) aah) = some (.awaitingPayload, 5, 256, [.readReq 5 256]) := by decide
/-- S2 and S3 of V7. -/
theorem test_rxScoHdr :
    framer (exec (.rxDoneScoHdr [0x2A, 0x00, 0xFF]) ash) = some (.awaitingPayload, 4, 255, [.readReq 4 255]) ∧
    framer (exec (.rxDoneScoHdr [0x2A, 0x00, 0x02]) ash) = some (.awaitingPayload, 4, 2, [.readReq 4 2]) := by decide
/-- Step 3 of X1 (V1) and S1 of V7. -/
theorem test_rxPayload_event : framer (exec (.rxDonePayload [0xAB, 0xCD]) apEvent) =
    some (.awaitingType, 0, 1,
      [.dispatch (.registered 7) 0x04 (.inBuf 9 [0x0E, 0x02, 0xAB, 0xCD]) 4, .readReq 0 1]) := by decide
theorem test_rxPayload_zero_sco : framer (exec (.rxDonePayload []) apSco0) =
    some (.awaitingType, 0, 1, [.dispatch (.registered 7) 0x03 (.inBuf 9 [0x2A, 0x00, 0x00]) 3, .readReq 0 1]) := by decide
/-- SG2 of V9. -/
theorem test_sendPacket : (stateOf (exec (.sendPacket 0x01 1 3) stored)).map (fun t => (t.buf, t.writeGate, t.txReq, t.history)) =
    some ([(0, 0x01), (1, 0x03), (2, 0x0C), (3, 0x00)], true, some ⟨0, 4, [0x01, 0x03, 0x0C, 0x00]⟩,
      [.writeReq 0 4, .returnInt 0]) := by decide
/-- SG4, SG8, SG9, SG10 of V9. -/
theorem test_sendPacket_refused :
    refusalOf (exec (.sendPacket 0x01 5 1) sending) = some .sendWhileTransmitting ∧
    refusalOf (exec (.sendPacket 0x01 8 1) idle) = some .sendOverlapsReceive ∧
    refusalOf (exec (.sendPacket 0x01 0 1) idle) = some .sendTagSlotOutsidePreBuffer ∧
    refusalOf (exec (.sendPacket 0x01 9 0) idle) = some .sendTagSlotOutsidePreBuffer := by decide
/-- SG3 and SG6 of V9. -/
theorem test_canSendNow :
    (stateOf (exec (.canSendNow 0x01) sending)).map State.history = some [.returnBool false] ∧
    (stateOf (exec (.canSendNow 0xFF) idle)).map State.history = some [.returnBool true] := by decide
/-- SG5 and SG12 of V9. -/
theorem test_txDone : (stateOf (exec .txDone sending)).map (fun t => (t.writeGate, t.txReq, t.history)) =
    some (false, none, [.dispatch (.registered 7) 0x04 (.const [0x6E, 0x00]) 2]) := by decide
theorem test_txDone_none : faultOf (exec .txDone idle) = some .noWriteOutstanding := by decide
/-- F1 and F3 of V10. -/
theorem test_init : (stateOf (exec (.initOp .wrongKind) State.reset)).map (fun t => (t.configured, t.history)) =
      some (false, [.log .configError]) ∧
    (stateOf (exec (.initOp (.uart ⟨1, 115200, 2⟩)) State.reset)).map (fun t => (t.configured, t.drvCfg, t.history)) =
      some (true, ⟨1, 115200, 2⟩, [.drvConfigure ⟨1, 115200, 2⟩]) := by decide
/-- F4 and F5 of V10. -/
theorem test_open : stateOf (exec (.openOp (-1)) configured) = some { configured with history := [.drvOpen, .returnInt (-1)] } ∧
    framer (exec (.openOp 0) configured) = some (.awaitingType, 0, 1, [.drvOpen, .readReq 0 1, .returnInt 0]) := by decide
theorem test_open_refused : refusalOf (exec (.openOp 0) State.reset) = some .openUnconfigured ∧
    refusalOf (exec (.openOp 0) idle) = some .openWhileOpen := by decide
/-- F11 of V10: the cursor keeps the values of the interrupted packet. -/
theorem test_close : (stateOf (exec (.closeOp 7) { apEvent with writeGate := true, txReq := some ⟨0, 1, [0]⟩ })).map
      (fun t => (t.opened, t.writeGate, t.rxReq, t.txReq)) = some (false, false, none, none) ∧
    framer (exec (.closeOp 7) apEvent) = some (.awaitingPayload, 3, 2, [.drvClose, .returnInt 7]) := by decide
/-- F14 of V10. -/
theorem test_register : (stateOf (exec (.registerHandler none) idle)).map State.handler = some .nopSink ∧
    (stateOf (exec (.registerHandler (some 3)) idle)).map State.handler = some (.registered 3) := by decide
/-- F10 of V10. -/
theorem test_setBaudrate : stateOf (exec (.setBaudrate 1 22) apEvent) =
    some { apEvent with history := [.drvSetBaudrate 1, .returnInt 22] } := by decide
/-- R184: a driver that never completes a zero-size read. -/
theorem test_zero_read_parks : faultOf (exec (.rxDonePayload []) (withParams ⟨8, 260, 3, 0x6E, false⟩ apSco0)) =
    some .zeroReadNeverCompletes := by decide
/-- R208: from inside the sent event, a send is the same stimulus and an OPEN is refused. -/
theorem test_call_from_handler :
    isNext (step { stored with handlerWindow := true, inputs := [.fromHandler 5 (.send 0x02 1 2)] }) = true ∧
    refusalOf (step { stored with handlerWindow := true, inputs := [.fromHandler 1 (.answer 0)] }) =
      some .lifecycleCallFromHandler := by decide
/-- R62, R238: a store into the pre-buffer, and one into the RX window. -/
theorem test_store : (stateOf (step { idle with inputs := [.store 1 [0xAA]] })).map State.buf = some [(1, 0xAA)] ∧
    refusalOf (step { idle with inputs := [.store 7 [0xAA, 0xBB]] }) = some .storeInRxWindow ∧
    refusalOf (step { sending with inputs := [.store 3 [0xAA]] }) = some .storeInTxWindow := by decide
/-- X2 of V2: one byte discarded, one packet delivered. -/
theorem test_feed_resync : (stateOf (feed [0xFF, 0x02, 0x01, 0x00, 0x01, 0x00, 0x99] idle)).map (fun t => reports t.history) =
    some [.log (.invalidTypeTag 0xFF), .dispatch (.registered 7) 0x02 (.inBuf 9 [0x01, 0x00, 0x01, 0x00, 0x99]) 5] := by decide

/-- R95 and R208: each `RX` line of a FEED is a stimulus, so the call of the first packet's handler is over when the bad tag has
come, and a call from inside it has no move. -/
theorem test_feed_ends_the_turn : (stateOf (feed [0x04, 0x0E, 0x00] idle)).map State.handlerWindow = some true ∧
    (stateOf (feed [0x04, 0x0E, 0x00, 0xFF] idle)).map (fun t =>
      faultOf (step { t with inputs := [.fromHandler 4 (.tag 1)] })) = some (some .noHandlerRunning) := by decide

/-! ### Witnesses: values that meet the hypotheses of each statement -/

theorem idle_inv : Inv idle where
  admitted := by decide
  bufCanonical := by decide
  bufInRange := by decide
  oneRead := by decide
  closedQuiet := by decide
  gateIffTransmit := by decide
  openedConfigured := by decide
  cursorRow := fun _ => ⟨rfl, rfl⟩
  cursorBound := by decide

theorem sending_inv : Inv sending where
  admitted := by decide
  bufCanonical := by decide
  bufInRange := by decide
  oneRead := by decide
  closedQuiet := by decide
  gateIffTransmit := by decide
  openedConfigured := by decide
  cursorRow := fun _ => ⟨rfl, rfl⟩
  cursorBound := by decide

theorem apEvent_inv : Inv apEvent where
  admitted := by decide
  bufCanonical := by decide
  bufInRange := by decide
  oneRead := by decide
  closedQuiet := by decide
  gateIffTransmit := by decide
  openedConfigured := by decide
  cursorRow := fun _ => .inl ⟨rfl, by decide⟩
  cursorBound := by decide

theorem idle_openIdle : OpenIdle idle := ⟨rfl, rfl, rfl, rfl, rfl⟩

theorem witness_DecodeOfEncode : Params.reference.admitted = true ∧
    (Instr.sendPacket 0xFF 8 260).wellFormed Params.reference = true ∧
    (Instr.rxDonePayload (List.replicate 256 0)).wellFormed Params.reference = true ∧
    (Instr.pktInvalid 0x00).wellFormed Params.reference = true :=
  ⟨by decide, by decide, by simp only [Instr.wellFormed, List.length_replicate]; decide, by decide⟩
theorem witness_EncodeOfDecode : decode Params.reference (.port 0x4F .nothing) = .ok .txDone ∧
    decode Params.reference (.port 0x44 (.block [])) = .ok (.rxDonePayload []) := by decide
theorem witness_UnassignedSelections : (7 : BitVec 4) = 7 ∧ 10 ≤ (10 : BitVec 4).toNat ∧ 10 ≤ (15 : BitVec 4).toNat ∧
    5 ≤ (5 : BitVec 3).toNat ∧ (9 : BitVec 4) ≠ 7 ∧ (9 : BitVec 4).toNat < 10 ∧ (4 : BitVec 3).toNat < 5 := by decide
theorem witness_EveryTagByte : Params.reference.admitted = true ∧ (0x00 : Byte) ≠ 0x04 ∧ (0x00 : Byte) ≠ 0x02 ∧
    (0x00 : Byte) ≠ Params.reference.tagSco := by decide
theorem witness_PacketBytes : Params.reference.admitted = true ∧
    (Packet.acl 1 2 (List.replicate 256 0)).wellFormed Params.reference = true ∧
    (Packet.event 1 (List.replicate 255 0)).wellFormed Params.reference = true ∧
    (Packet.sco 1 2 []).wellFormed Params.reference = true :=
  ⟨by decide, by simp only [Packet.wellFormed, List.length_replicate]; decide,
    by simp only [Packet.wellFormed, List.length_replicate]; decide, by decide⟩
/-- A state with one input, from inside the handler or not. -/
def given (x : Input) (window : Bool) : State := { idle with inputs := [x], handlerWindow := window }

theorem witness_StepRuns :
    (given (.port 8 (.block [0x04])) false).inputs = .port 8 (.block [0x04]) :: [] ∧
    (given (.wire 0x04) true).inputs = .wire 0x04 :: [] ∧ idle.inputs = [] ∧
    decode idle.params (.port (selWord 8 idle.frameState.code) (.block [0x04])) = .ok (.rxDoneType [0x04]) ∧
    decode idle.params (.wire 0x04) = .ok .pktEvent := by decide
theorem witness_CallsFromInside :
    (given (.fromHandler 4 (.tag 1)) true).inputs = .fromHandler 4 (.tag 1) :: [] ∧
    (given (.fromHandler 4 (.tag 1)) true).handlerWindow = true ∧
    (given (.fromHandler 2 (.answer 0)) false).handlerWindow = false ∧
    decode idle.params (.port (selWord 4 idle.frameState.code) (.tag 1)) = .ok (.canSendNow 1) ∧
    callerOf (.canSendNow 1) = .reentrant ∧
    decode idle.params (.port (selWord 2 idle.frameState.code) (.answer 0)) = .ok (.closeOp 0) ∧
    callerOf (.closeOp 0) = .lifecycle ∧
    decode idle.params (.port (selWord 9 idle.frameState.code) .nothing) = .ok .txDone ∧ callerOf .txDone = .driver := by
  decide
/-- The byte below the RX window, the window itself, the byte after it; a byte of the TX window; the last byte of `BUF` and the
first offset after it. -/
theorem witness_ConsumerStores : (given (.store 8 [0]) false).inputs = .store 8 [0] :: [] ∧ sending.params.admitted = true ∧ 8 + 1 ≤ sending.params.cap ∧
    268 + 1 ≤ sending.params.cap ∧ sending.params.cap < 269 + 1 ∧ rxWindow sending = ⟨8, 9⟩ ∧ txWindow sending = ⟨0, 4⟩ ∧
    (Window.mk 8 9).meets (rxWindow sending) = true ∧ (Window.mk 3 4).meets (rxWindow sending) = false ∧
    (Window.mk 3 4).meets (txWindow sending) = true ∧ (Window.mk 4 8).meets (txWindow sending) = false ∧
    (Window.mk 4 8).meets (rxWindow sending) = false ∧ (Window.mk 9 269).meets (rxWindow sending) = false := by decide
theorem witness_TagRows : idle.params.admitted = true ∧ OpenIdle idle := ⟨by decide, idle_openIdle⟩
theorem witness_InvalidTag : idle.params.admitted = true ∧ OpenIdle idle ∧ (0xFF : Byte) ≠ 0x04 ∧ (0xFF : Byte) ≠ 0x02 ∧
    (0xFF : Byte) ≠ idle.params.tagSco := ⟨by decide, idle_openIdle, by decide⟩
theorem witness_TypeStimulusIsItsWireRow : idle.rxReq = some ⟨0, 1⟩ := rfl
theorem witness_WireRowsNeed : idle.params.admitted = true ∧ aeh.rxReq ≠ some ⟨0, 1⟩ ∧
    { idle with opened := false }.rxReq = some ⟨0, 1⟩ ∧
    { idle with frameState := .awaitingPayload }.rxReq = some ⟨0, 1⟩ := by decide
theorem witness_EventHeader : aeh.params.admitted = true ∧ aeh.opened = true ∧ aeh.frameState = .awaitingEventHeader ∧
    aeh.readPos = 1 ∧ aeh.bytesToRead = 2 ∧ aeh.rxReq = some ⟨1, 2⟩ := by decide
/-- Both clauses, at the last accepted length and the first rejected one. -/
theorem witness_AclHeader : aah.params.admitted = true ∧ aah.opened = true ∧ aah.frameState = .awaitingAclHeader ∧
    aah.readPos = 1 ∧ aah.bytesToRead = 4 ∧ aah.rxReq = some ⟨1, 4⟩ ∧
    4 + ((0x00 : Byte).toNat + 256 * (0x01 : Byte).toNat) ≤ aah.params.mps ∧
    aah.params.mps < 4 + ((0x01 : Byte).toNat + 256 * (0x01 : Byte).toNat) := by decide
theorem witness_ScoHeader : ash.params.admitted = true ∧ ash.opened = true ∧ ash.frameState = .awaitingScoHeader ∧
    ash.readPos = 1 ∧ ash.bytesToRead = 3 ∧ ash.rxReq = some ⟨1, 3⟩ := by decide
/-- A block of no bytes, and one that ends at the last byte of the buffer. -/
theorem witness_Payload_empty : apSco0.params.admitted = true ∧ apSco0.opened = true ∧ apSco0.frameState = .awaitingPayload ∧
    apSco0.rxReq = some ⟨apSco0.readPos, apSco0.bytesToRead⟩ ∧ ([] : List Byte).length = apSco0.bytesToRead ∧
    apSco0.params.zeroReadCompletes = true ∧ 1 ≤ apSco0.readPos ∧
    apSco0.readPos + apSco0.bytesToRead ≤ 1 + apSco0.params.mps := by decide
theorem witness_Payload_full : apAclFull.params.admitted = true ∧ apAclFull.opened = true ∧
    apAclFull.frameState = .awaitingPayload ∧ apAclFull.rxReq = some ⟨apAclFull.readPos, apAclFull.bytesToRead⟩ ∧
    (List.replicate 256 (0 : Byte)).length = apAclFull.bytesToRead ∧ 1 ≤ apAclFull.readPos ∧
    apAclFull.readPos + apAclFull.bytesToRead = 1 + apAclFull.params.mps :=
  ⟨by decide, by decide, by decide, by decide, List.length_replicate, by decide, by decide⟩
theorem witness_BlockReceivedNeedsItsRequest : State.reset.params.admitted = true ∧ State.reset.opened = false ∧
    { idle with rxReq := none }.opened = true ∧ aeh.rxReq = some ⟨1, 2⟩ ∧ ([0] : List Byte).length ≠ 2 ∧
    apSco0.rxReq = some ⟨4, 0⟩ ∧ (withParams ⟨8, 260, 3, 0x6E, false⟩ apSco0).params.zeroReadCompletes = false ∧
    ([0, 0] : List Byte).length = 2 ∧ aeh.frameState ≠ .awaitingPayload := by decide
theorem witness_EveryReceiveStep : isReceive (.rxDoneType [0xFF]) = true ∧ isNext (exec (.rxDoneType [0xFF]) idle) = true := by
  decide
/-- The receive clause and the INIT clause. -/
theorem witness_ErrorEntry :
    (stateOf (exec (.rxDoneType [0xFF]) idle)).map (emitted idle) = some [.log (.invalidTypeTag 0xFF), .readReq 0 1] ∧
    (stateOf (exec (.initOp .missing) configured)).map (emitted configured) = some [.log .configError] := by decide
theorem witness_CanSendNow : State.reset.params.admitted = true := by decide
/-- Every clause of SEND_PACKET, at its edge. -/
theorem witness_SendPacket : idle.params.admitted = true ∧ 1 ≤ idle.readPos + idle.bytesToRead ∧ idle.writeGate = false ∧
    idle.opened = true ∧ 1 ≤ 8 ∧ 8 ≤ idle.params.pb ∧ 0 ≤ idle.params.mps ∧ 8 + 0 ≤ idle.params.cap ∧ 8 + 0 ≤ idle.params.pb ∧
    sending.writeGate = true ∧ { idle with opened := false }.writeGate = false ∧ ¬ (1 ≤ 0 ∧ 0 ≤ idle.params.pb) ∧
    ¬ (1 ≤ 9 ∧ 9 ≤ idle.params.pb) ∧ ¬ (261 ≤ idle.params.mps ∧ 8 + 261 ≤ idle.params.cap) ∧
    1 ≤ idle.params.mps ∧ 8 + 1 ≤ idle.params.cap ∧ idle.params.pb < 8 + 1 := by decide
theorem witness_TransmitDone : sending.txReq = some ⟨0, 4, [0x01, 0x03, 0x0C, 0x00]⟩ ∧ sending.params.admitted = true ∧ sending.opened = true ∧ sending.txReq.isSome = true ∧
    State.reset.opened = false ∧ idle.opened = true ∧ idle.txReq = none := by decide
/-- A send, and the three stimuli that clear a set gate. -/
theorem witness_SendGateExclusivity :
    (stateOf (exec (.sendPacket 1 1 3) stored)).map State.writeGate = some true ∧ stored.writeGate = false ∧
    sending.writeGate = true ∧ (stateOf (exec .txDone sending)).map State.writeGate = some false ∧
    (stateOf (exec (.closeOp 0) sending)).map State.writeGate = some false ∧
    (stateOf (exec (.openOp 0) { configured with writeGate := true })).map State.writeGate = some false := by decide
theorem witness_Facade : State.reset.params.admitted = true ∧ State.reset.opened = false ∧ State.reset.configured = false ∧
    configured.configured = true ∧ configured.opened = false ∧ (-1 : Int) ≠ 0 ∧ idle.opened = true ∧ idle.configured = true := by
  decide
theorem witness_CloseThenOpen : Inv apEvent ∧ apEvent.opened = true := ⟨apEvent_inv, rfl⟩
theorem witness_EqualTags : (withParams ⟨8, 260, 0x04, 0x6E, true⟩ idle).params.tagSco = 0x04 ∧
    (withParams ⟨8, 260, 0x02, 0x6E, true⟩ idle).params.tagSco = 0x02 := by decide
theorem witness_SmallBuffers : (withParams ⟨8, 257, 3, 0x6E, true⟩ idle).params.mps < 258 := by decide
theorem witness_Phases : admittedIn (.closeOp 0) State.reset.phase = false ∧ callerOf (.closeOp 0) ≠ .driver ∧
    admittedIn .txDone State.reset.phase = false ∧ callerOf .txDone = .driver ∧
    isNext (exec .pktEvent idle) = true ∧ isReceive .pktEvent = true ∧ isNext (exec .txDone sending) = true := by decide
/-- Each element of state changes in some step. -/
theorem witness_OnlyTheNamedStimuli :
    (stateOf (exec .pktEvent idle)).map State.readPos ≠ some idle.readPos ∧ isNext (exec .pktEvent idle) = true ∧
    (stateOf (exec (.registerHandler none) idle)).map State.handler = some .nopSink ∧ idle.handler ≠ .nopSink ∧
    (stateOf (exec (.initOp (.uart ⟨1, 1, 1⟩)) State.reset)).map State.configured = some true ∧
    (stateOf (exec (.openOp 0) configured)).map State.opened = some true ∧
    (stateOf (exec (.closeOp 1) idle)).map State.opened = some false ∧
    (stateOf (exec (.closeOp 1) idle)).map State.rxReq = some none ∧ idle.rxReq ≠ none ∧
    (stateOf (exec (.openOp 0) configured)).map State.rxReq = some (some ⟨0, 1⟩) ∧ configured.rxReq = none ∧
    (stateOf (exec .pktEvent idle)).map State.rxReq = some (some ⟨1, 2⟩) ∧
    (stateOf (exec .txDone sending)).map State.txReq = some none := by decide
theorem witness_BufferWriters :
    (stateOf (exec (.sendPacket 1 1 3) stored)).map (fun t => Memory.read t.buf 0) = some (some 0x01) ∧
    Memory.read stored.buf 0 = none ∧
    (stateOf (exec .pktEvent idle)).map (fun t => Memory.read t.buf 8) = some (some 0x04) ∧ Memory.read idle.buf 8 = none := by
  decide
theorem witness_EveryReadRequest : Inv idle ∧
    (stateOf (exec .pktEvent idle)).map (emitted idle) = some [.readReq 1 2] := ⟨idle_inv, by decide⟩
theorem witness_StepsKeepTheParameters : isNext (step { idle with inputs := [.wire 0x04] }) = true := by decide

/-- A state in the middle of an event packet meets every invariant, and its next step answers next. -/
def apEventNext : State := { apEvent with inputs := [.port 8 (.block [0xAB, 0xCD])] }

theorem witness_StepsKeepTheInvariants : Inv apEventNext ∧ isNext (step apEventNext) = true :=
  ⟨⟨by decide, by decide, by decide, by decide, by decide, by decide, by decide, fun _ => .inl ⟨rfl, by decide⟩, by decide⟩,
    by decide⟩
theorem apEvent_filled : Filled apEvent := fun _ i hi => by
  have h : ∀ i, i < 3 → (Memory.read apEvent.buf (apEvent.phys i)).isSome = true := by decide
  exact h i hi
theorem apEvent_agrees : HeaderAgrees apEvent := fun _ => by
  refine ⟨fun _ => by decide, fun h => ?_, fun h => ?_⟩
  · exact absurd h (by decide)
  · exact absurd h (by decide)
theorem witness_StepsKeepTheHeader : Inv apEvent ∧ Filled apEvent ∧ HeaderAgrees apEvent :=
  ⟨apEvent_inv, apEvent_filled, apEvent_agrees⟩
theorem sending_snapshot : SnapshotHolds sending := fun q hq => by
  have h : q = ⟨0, 4, [0x01, 0x03, 0x0C, 0x00]⟩ := by
    have h2 : some (WriteRequest.mk 0 4 [0x01, 0x03, 0x0C, 0x00]) = some q := hq
    exact (Option.some.inj h2).symm
  subst h
  decide
theorem witness_StepsKeepTheTransmitBytes : Inv sending ∧ SnapshotHolds sending ∧
    isNext (step { sending with inputs := [.wire 0x04] }) = true := ⟨sending_inv, sending_snapshot, by decide⟩
theorem witness_DispatchedLength : Inv apEvent ∧ HeaderAgrees apEvent ∧
    isNext (exec (.rxDonePayload [0xAB, 0xCD]) apEvent) = true := ⟨apEvent_inv, apEvent_agrees, by decide⟩
theorem witness_Streams : idle.params.admitted = true ∧ OpenIdle idle ∧ idle.params.zeroReadCompletes = true ∧
    (∀ x ∈ [StreamItem.packet (.event 0x0E []), .badTag 0xFF, .oversize 1 0 1 1, .packet (.acl 1 0 [0x99]), .packet (.sco 1 0 [])],
      x.valid idle.params = true) := ⟨by decide, idle_openIdle, by decide, by decide⟩
theorem witness_Commute : isNext (exec (rxRow .awaitingType [0x04]) sending) = true ∧ isNext (exec .txDone sending) = true := by
  decide
theorem witness_HandlerCalls : callerOf (.sendPacket 1 1 3) = .reentrant ∧ 1 ≤ stored.readPos + stored.bytesToRead ∧
    isNext (exec (.sendPacket 1 1 3) stored) = true := by decide

end Sys2Proof.Tests
end

section
/-! SUPPORT. What the proofs of the scope statements (00_scope.md) rest on: when two windows share an offset, what a step does
with the input it takes, what a store answers, the configuration test of every meaning, and that no meaning writes the
parameters. -/

namespace Sys2Proof.Machine

/-! ### Windows -/

/-- Two ranges meet when some offset lies in both. -/
theorem Window.meets_iff (v w : Window) :
    v.meets w = true ↔ ∃ x, v.lo ≤ x ∧ x < v.hi ∧ w.lo ≤ x ∧ x < w.hi := by
  simp only [Window.meets, decide_eq_true_eq]
  constructor
  · intro h
    exact ⟨max v.lo w.lo, by omega⟩
  · rintro ⟨x, hx⟩
    omega

/-! ### The step on each input -/

theorem step_of_no_input {s : State} (hin : s.inputs = []) : step s = .next s := by
  simp only [step, acceptInput, hin]

theorem step_of_port {s : State} {op : BitVec 4} {x : Operand} {rest : List Input} {i : Instr}
    (hin : s.inputs = .port op x :: rest) (hd : decode s.params (presented op x s) = .ok i) :
    step s = exec i { s with inputs := rest, handlerWindow := false } := by
  simp only [step, acceptInput, hin, hd]

theorem step_of_wire {s : State} {b : Byte} {rest : List Input} {i : Instr}
    (hin : s.inputs = .wire b :: rest) (hd : decode s.params (.wire b) = .ok i) :
    step s = exec i { s with inputs := rest, handlerWindow := false } := by
  simp only [step, acceptInput, hin, hd]

theorem step_of_store {s : State} {a : Nat} {d : List Byte} {rest : List Input}
    (hin : s.inputs = .store a d :: rest) : step s = consumerStore a d { s with inputs := rest } := by
  simp only [step, acceptInput, hin]

/-! ### The consumer's store, one lemma per answer (20_memory.md R62; 70_reset_and_hazards.md R235, R238) -/

section
variable {a : Nat} {d : List Byte} {s : State}

theorem consumerStore_of_outside (ha : s.params.admitted = true) (hout : s.params.cap < a + d.length) :
    consumerStore a d s = .refused .storeOutsideBuffer := by
  rw [consumerStore, ifAdmitted_of ha, if_pos hout]

theorem consumerStore_of_rxWindow (ha : s.params.admitted = true) (hin : a + d.length ≤ s.params.cap)
    (hrx : (Window.mk a (a + d.length)).meets (rxWindow s) = true) :
    consumerStore a d s = .refused .storeInRxWindow := by
  rw [consumerStore, ifAdmitted_of ha, if_neg hin.not_gt, if_pos hrx]

theorem consumerStore_of_txWindow (ha : s.params.admitted = true) (hin : a + d.length ≤ s.params.cap)
    (hrx : ¬ (Window.mk a (a + d.length)).meets (rxWindow s) = true)
    (htx : (Window.mk a (a + d.length)).meets (txWindow s) = true) :
    consumerStore a d s = .refused .storeInTxWindow := by
  rw [consumerStore, ifAdmitted_of ha, if_neg hin.not_gt, if_neg hrx, if_pos htx]

theorem consumerStore_of_free (ha : s.params.admitted = true) (hin : a + d.length ≤ s.params.cap)
    (hrx : ¬ (Window.mk a (a + d.length)).meets (rxWindow s) = true)
    (htx : ¬ (Window.mk a (a + d.length)).meets (txWindow s) = true) :
    consumerStore a d s = .next (memFill a d s) := by
  rw [consumerStore, ifAdmitted_of ha, if_neg hin.not_gt, if_neg hrx, if_neg htx]

end

/-! ### The configuration test (R7, R8) -/

theorem ifAdmitted_of_not {s : State} (h : ¬ s.params.admitted = true) (k : Result) :
    ifAdmitted s k = .refused .configurationNotAdmitted := if_neg h

/-- Every meaning begins with the configuration test. -/
theorem exec_eq_ifAdmitted (i : Instr) (s : State) : ∃ k, exec i s = ifAdmitted s k := by
  cases i <;> exact ⟨_, rfl⟩

theorem exec_of_not_admitted (i : Instr) {s : State} (h : ¬ s.params.admitted = true) :
    exec i s = .refused .configurationNotAdmitted := by
  obtain ⟨k, hk⟩ := exec_eq_ifAdmitted i s
  rw [hk, ifAdmitted_of_not h]

/-! ### The parameters (R6) -/

theorem execRegisterHandler_next {h : Option Nat} {s t : State} (hn : execRegisterHandler h s = .next t) :
    s.params.admitted = true ∧ ∃ k, t = { s with handler := k } := by
  obtain ⟨ha, hn⟩ := ifAdmitted_next hn
  cases hn
  exact ⟨ha, _, rfl⟩

theorem execCanSendNow_next {ty : Byte} {s t : State} (h : execCanSendNow ty s = .next t) :
    s.params.admitted = true ∧ t = emit (.returnBool (gateOpen s)) s := by
  obtain ⟨ha, h⟩ := ifAdmitted_next h
  cases h
  exact ⟨ha, rfl⟩

theorem FrameCase.params_eq {fs : FrameState} {s1 s2 : State} (h : FrameCase fs s1 s2) : s2.params = s1.params := by
  cases h <;> rfl

theorem ReceiveStep.params_eq {s t : State} (r : ReceiveStep s t) : t.params = s.params := by
  rw [r.result, issueRead_params, r.frameCase.params_eq, accepted_params]

/-- No meaning writes the parameters. -/
theorem exec_params_eq {i : Instr} {s t : State} (h : exec i s = .next t) : t.params = s.params := by
  by_cases hi : isReceive i = true
  · obtain ⟨r⟩ := exec_receiveStep hi h
    exact r.params_eq
  cases i <;> simp only [isReceive, not_true_eq_false] at hi
  case initOp cfg => obtain ⟨_, _, ⟨_, _, rfl⟩ | ⟨_, rfl⟩⟩ := execInit_next h <;> rfl
  case openOp rc => obtain ⟨_, _, _, ⟨_, rfl⟩ | ⟨_, rfl⟩⟩ := execOpen_next h <;> rfl
  case closeOp rc => obtain ⟨_, _, rfl⟩ := execClose_next h; rfl
  case registerHandler k => obtain ⟨_, _, rfl⟩ := execRegisterHandler_next h; rfl
  case canSendNow ty => obtain ⟨_, rfl⟩ := execCanSendNow_next (ty := ty) h; rfl
  case sendPacket ty p n => obtain ⟨_, _, _, _, _, _, _, _, rfl⟩ := execSendPacket_next h; rfl
  case setBaudrate r rc => obtain ⟨_, _, rfl⟩ := execSetBaudrate_next h; rfl
  case txDone => obtain ⟨_, _, _, rfl⟩ := execTxDone_next h; rfl

end Sys2Proof.Machine
end

section
/-! PROOF. The scope statements (00_scope.md). -/

namespace Sys2Proof.Machine

/-- Settles O9: the offsets a store shares with a window are those where the two ranges meet, and the store's answer in each
case is its lemma's; what a free store leaves at each offset is the law of the block fill. -/
theorem consumerStoresStayOutsideTheWindows : Obligations.ConsumerStoresStayOutsideTheWindows := by
  intro s a d rest hin ha
  have meets (w : Window) := (Window.mk a (a + d.length)).meets_iff w
  rw [step_of_store hin, ← meets, ← meets]
  have hadm : ({ s with inputs := rest } : State).params.admitted = true := ha
  exact ⟨consumerStore_of_outside hadm, consumerStore_of_rxWindow hadm, consumerStore_of_txWindow hadm,
    fun hcap hrx htx => ⟨_, consumerStore_of_free hadm hcap hrx htx, rfl, Memory.read_fill d s.buf a⟩⟩

/-- Settles O38: a step is idle, an instruction on the state with its input taken, or a store, and none of the three writes
the parameters. -/
theorem stepsKeepTheParameters : Obligations.StepsKeepTheParameters := by
  intro s t h
  obtain ⟨_, rfl⟩ | ⟨_, _, _, hexec⟩ | ⟨_, _, _, hstore⟩ := step_cases h
  · rfl
  · exact (exec_params_eq hexec :)
  · obtain ⟨_, _, _, _, rfl⟩ := consumerStore_next hstore
    rfl

/-- Settles O7, one lemma per kind of input. -/
theorem stepRunsTheDecodedInstruction : Obligations.StepRunsTheDecodedInstruction :=
  ⟨fun _ _ _ _ _ => step_of_port, fun _ _ _ _ => step_of_wire, fun _ => step_of_no_input⟩

/-- Settles O33: such a configuration is not admitted, and every meaning tests that first. -/
theorem smallBuffersAreRefused : Obligations.SmallBuffersAreRefused := by
  intro i s hsmall
  refine exec_of_not_admitted i fun hadm => ?_
  obtain ⟨hmps, _, _⟩ := (Params.admitted_iff s.params).1 hadm
  omega

/-- Settles O49: such a configuration is not admitted, and every meaning tests that first. -/
theorem equalTagsAreRefused : Obligations.EqualTagsAreRefused := by
  intro i s hequal
  refine exec_of_not_admitted i fun hadm => ?_
  obtain ⟨_, hevent, hacl⟩ := (Params.admitted_iff s.params).1 hadm
  exact hequal.elim hevent hacl

end Sys2Proof.Machine
end

section
/-! SUPPORT. What the proofs of the state statements (10_state.md) rest on: the frame and the outputs of a receive step, and
one rule per state operation that keeps the invariants. -/

namespace Sys2Proof.Machine

/-! ### The frame of the receive path -/

/-- `s2` differs from `s1` at most in the elements the receive path writes beside the buffer: the framer's registers, the
outstanding read, the history, the handler's turn. -/
def SameButFramer (s1 s2 : State) : Prop :=
  s2 = { s1 with frameState := s2.frameState, readPos := s2.readPos, bytesToRead := s2.bytesToRead, rxReq := s2.rxReq,
                 history := s2.history, handlerWindow := s2.handlerWindow }

theorem FrameCase.sameButFramer {fs : FrameState} {s1 s2 : State} (h : FrameCase fs s1 s2) : SameButFramer s1 s2 := by
  cases h <;> rfl

/-- A receive step writes the block into the buffer, and beside it at most the framer's elements. -/
theorem ReceiveStep.sameButFramer {s t : State} (r : ReceiveStep s t) :
    SameButFramer (memFill (s.phys r.q.pos) r.d s) t := by
  obtain ⟨_, _, _, _, _, _, _, _, _, hcase, rfl⟩ := r
  exact congrArg issueRead hcase.sameButFramer

/-! ### The outputs of a step (10_state.md R39) -/

@[simp] theorem clearGate_history (s : State) : (clearGate s).history = s.history := rfl
@[simp] theorem clearGate_opened (s : State) : (clearGate s).opened = s.opened := rfl

theorem startTransmit_history (s : State) (ty : Byte) (p n : Nat) :
    (startTransmit ty p n s).history = s.history ++ [.writeReq (p - 1) (n + 1), .returnInt 0] := by
  simp [startTransmit, setGate, memWrite]

/-- A framer's case requests no read itself. -/
theorem FrameCase.appends {fs : FrameState} {s1 s2 : State} (h : FrameCase fs s1 s2) :
    ∃ outs, s2.history = s1.history ++ outs ∧ ∀ pos n, .readReq pos n ∉ outs := by
  cases h with
  | header n fs' _ _ => exact ⟨[], by simp, by simp⟩
  | length n _ => exact ⟨[], by simp, by simp⟩
  | cause c _ => exact ⟨[.log c], rfl, by simp⟩
  | packet _ _ => exact ⟨[_], rfl, by simp⟩

/-- The history grew, and every read the new outputs request is the one the new cursor describes, on an open transport. -/
def AppendsOnlyItsRead (s t : State) : Prop :=
  ∃ outs, t.history = s.history ++ outs ∧
    ∀ pos n, .readReq pos n ∈ outs → t.opened = true ∧ pos = t.readPos ∧ n = t.bytesToRead

theorem ReceiveStep.appendsOnlyItsRead {s t : State} (r : ReceiveStep s t) : AppendsOnlyItsRead s t := by
  obtain ⟨outs, hist, hno⟩ := r.frameCase.appends
  have hopen : t.opened = true := (congrArg State.opened r.sameButFramer).trans r.opened
  refine ⟨outs ++ [.readReq t.readPos t.bytesToRead], ?_, fun pos n hmem => ⟨hopen, ?_⟩⟩
  · rw [r.result, issueRead_history, hist, accepted_history, List.append_assoc]; rfl
  · simpa [hno] using hmem

theorem exec_appendsOnlyItsRead {i : Instr} {s t : State} (h : exec i s = .next t) : AppendsOnlyItsRead s t := by
  by_cases hi : isReceive i = true
  · obtain ⟨r⟩ := exec_receiveStep hi h
    exact r.appendsOnlyItsRead
  cases i <;> simp only [isReceive, not_true_eq_false] at hi
  case initOp cfg =>
    obtain ⟨_, _, ⟨c, _, rfl⟩ | ⟨_, rfl⟩⟩ := execInit_next h
    · exact ⟨[.drvConfigure c], rfl, by simp⟩
    · exact ⟨[.log .configError], rfl, by simp⟩
  case openOp rc =>
    obtain ⟨_, _, _, ⟨_, rfl⟩ | ⟨_, rfl⟩⟩ := execOpen_next h
    · exact ⟨[.drvOpen, .returnInt rc], by simp, by simp⟩
    · exact ⟨[.drvOpen, .readReq 0 1, .returnInt 0], by simp, by simp⟩
  case closeOp rc =>
    obtain ⟨_, _, rfl⟩ := execClose_next h
    exact ⟨[.drvClose, .returnInt rc], by simp, by simp⟩
  case registerHandler k =>
    obtain ⟨_, _, rfl⟩ := execRegisterHandler_next h
    exact ⟨[], by simp, by simp⟩
  case canSendNow ty =>
    obtain ⟨_, rfl⟩ := execCanSendNow_next (ty := ty) h
    exact ⟨[_], rfl, by simp⟩
  case sendPacket ty p n =>
    obtain ⟨_, _, _, _, _, _, _, _, rfl⟩ := execSendPacket_next h
    exact ⟨[.writeReq (p - 1) (n + 1), .returnInt 0], startTransmit_history s ty p n, by simp⟩
  case setBaudrate r rc =>
    obtain ⟨_, _, rfl⟩ := execSetBaudrate_next h
    exact ⟨[.drvSetBaudrate r, .returnInt rc], by simp, by simp⟩
  case txDone =>
    obtain ⟨_, _, _, rfl⟩ := execTxDone_next h
    exact ⟨[_], rfl, by simp⟩

theorem exec_history_grows {i : Instr} {s t : State} (h : exec i s = .next t) : s.history <+: t.history := by
  obtain ⟨outs, hist, _⟩ := exec_appendsOnlyItsRead h
  exact ⟨outs, hist.symm⟩

/-- A read that a step requests is the one its new cursor describes. -/
theorem exec_readReq {i : Instr} {s t : State} {pos n : Nat} (h : exec i s = .next t)
    (hreq : .readReq pos n ∈ emitted s t) : t.opened = true ∧ pos = t.readPos ∧ n = t.bytesToRead := by
  obtain ⟨outs, hist, honly⟩ := exec_appendsOnlyItsRead h
  rw [emitted, hist, List.drop_left] at hreq
  exact honly pos n hreq

/-! ### The length fields are bounded by their widths (30_encoding.md R85) -/

theorem eventLen_le (s : State) : eventLen s ≤ 255 := Nat.le_of_lt_succ (BitVec.isLt _)

theorem scoLen_le (s : State) : scoLen s ≤ 255 := Nat.le_of_lt_succ (BitVec.isLt _)

theorem le16_le (lo hi : Byte) : le16 lo hi ≤ 65535 := by
  unfold le16; omega

theorem aclLen_le (s : State) : aclLen s ≤ 65535 := le16_le _ _

/-! ### The cursor rows (10_state.md R24, R35) -/

/-- In an admitted configuration every cursor row keeps the bound of R24: `3 + 255` and `4 + 255` fit `1 + 258`, and the ACL
row carries its bounds check. -/
theorem CursorRow.bound {s : State} (h : CursorRow s) (ha : s.params.admitted = true) :
    s.readPos + s.bytesToRead ≤ 1 + s.params.mps := by
  obtain ⟨hmps, _, _⟩ := (Params.admitted_iff s.params).1 ha
  unfold CursorRow at h
  split at h <;> omega

/-- A framer's case leads from the row of its frame state to a row again, whatever block was accepted. -/
theorem FrameCase.cursorRow {s s2 : State} {q : ReadRequest} {d : List Byte} (hrow : CursorRow s)
    (h : FrameCase s.frameState (accepted q d s) s2) : CursorRow s2 := by
  cases h with
  | header n fs' hfs hn =>
    simp only [CursorRow, hfs] at hrow
    obtain ⟨rfl, rfl, _⟩ | ⟨rfl, rfl, _⟩ | ⟨rfl, rfl, _⟩ := hn <;> simp [CursorRow, hrow]
  | length n hn =>
    obtain ⟨hfs, rfl⟩ | ⟨hfs, rfl, hfit⟩ | ⟨hfs, rfl⟩ := hn <;> simp only [CursorRow, hfs] at hrow
    · exact .inl ⟨by simp [hrow], eventLen_le _⟩
    · exact .inr (.inl ⟨by simp [hrow], aclLen_le _, hfit⟩)
    · exact .inr (.inr ⟨by simp [hrow], scoLen_le _⟩)
  | cause c _ => exact ⟨rfl, rfl⟩
  | packet _ _ => exact ⟨rfl, rfl⟩

/-! ### One rule per state operation that keeps the invariants (10_state.md R34) -/

section
variable {s : State}

/-- The invariants speak of none of these elements. -/
theorem Inv.of_bookkeeping (hs : Inv s) (h : Handler) (c : DriverConfig) (hist : List Output) (ins : List Input) (w : Bool) :
    Inv { s with handler := h, drvCfg := c, history := hist, inputs := ins, handlerWindow := w } :=
  { hs with }

/-- A block stored inside `BUF` keeps the invariants. -/
theorem Inv.memFill (hs : Inv s) {a : Nat} {d : List Byte} (hin : a + d.length ≤ s.params.cap) : Inv (memFill a d s) :=
  { hs with
    bufCanonical := Memory.wf_fill d hs.bufCanonical a
    bufInRange := fun c hc => by
      rcases Memory.mem_fill d hc with ⟨_, hlt⟩ | hold
      · exact hlt.trans_le hin
      · exact hs.bufInRange c hold }

/-- INIT with a UART configuration (R160). -/
theorem Inv.configure (hs : Inv s) : Inv { s with configured := true } :=
  { hs with openedConfigured := fun _ => rfl }

/-- A successful OPEN (R161): nothing was in flight on the closed transport, so the gate is clear. -/
theorem Inv.openTransport (hs : Inv s) (hclosed : s.opened = false) (hconf : s.configured = true) :
    Inv { s with opened := true, writeGate := false, frameState := .awaitingType, readPos := 0, bytesToRead := 1,
                 rxReq := some ⟨0, 1⟩ } := by
  obtain ⟨_, htx⟩ := hs.closedQuiet hclosed
  have hrow : CursorRow { s with frameState := .awaitingType, readPos := 0, bytesToRead := 1 } := ⟨rfl, rfl⟩
  exact { hs with
    oneRead := fun _ => rfl
    closedQuiet := nofun
    gateIffTransmit := by simp [htx]
    openedConfigured := fun _ => hconf
    cursorRow := fun _ => hrow
    cursorBound := fun _ => hrow.bound hs.admitted }

/-- CLOSE (R162): on a closed transport nothing is asked of the cursor. -/
theorem Inv.closeTransport (hs : Inv s) :
    Inv { s with opened := false, writeGate := false, rxReq := none, txReq := none } :=
  { hs with
    oneRead := nofun
    closedQuiet := fun _ => ⟨rfl, rfl⟩
    gateIffTransmit := rfl
    openedConfigured := nofun
    cursorRow := nofun
    cursorBound := nofun }

/-- SEND_PACKET and TX_DONE (R141, R142): the gate and the outstanding write change together, on an open transport. -/
theorem Inv.setTransmit (hs : Inv s) (hopen : s.opened = true) (q : Option WriteRequest) :
    Inv { s with writeGate := q.isSome, txReq := q } :=
  { hs with
    closedQuiet := fun hclosed => nomatch hopen.symm.trans hclosed
    gateIffTransmit := rfl }

/-- The receive path: a new cursor in a row of R35, with the read it describes outstanding. -/
theorem Inv.of_sameButFramer {t : State} (hs : Inv s) (hsame : SameButFramer s t) (hopen : s.opened = true)
    (hreq : t.rxReq = some ⟨t.readPos, t.bytesToRead⟩) (hrow : CursorRow t) : Inv t := by
  rw [show t = _ from hsame] at hrow ⊢
  exact { hs with
    oneRead := fun _ => hreq
    closedQuiet := fun hclosed => nomatch hopen.symm.trans hclosed
    cursorRow := fun _ => hrow
    cursorBound := fun _ => hrow.bound hs.admitted }

end

theorem ReceiveStep.keeps_inv {s t : State} (r : ReceiveStep s t) (hs : Inv s) : Inv t := by
  have hin : s.phys r.q.pos + r.d.length ≤ s.params.cap := r.size ▸ r.range
  have hrow : CursorRow r.s2 := r.frameCase.cursorRow (hs.cursorRow r.opened)
  refine (hs.memFill hin).of_sameButFramer r.sameButFramer r.opened ?_ ?_
  · rw [r.result]; rfl
  · rw [r.result]; exact hrow

/-- Every instruction that answers next keeps the invariants. -/
theorem exec_keeps_inv {i : Instr} {s t : State} (hs : Inv s) (h : exec i s = .next t) : Inv t := by
  by_cases hi : isReceive i = true
  · obtain ⟨r⟩ := exec_receiveStep hi h
    exact r.keeps_inv hs
  cases i <;> simp only [isReceive, not_true_eq_false] at hi
  case initOp cfg =>
    obtain ⟨_, _, ⟨c, _, rfl⟩ | ⟨_, rfl⟩⟩ := execInit_next h
    · exact hs.configure.of_bookkeeping ..
    · exact hs.of_bookkeeping ..
  case openOp rc =>
    obtain ⟨_, hclosed, hconf, ⟨_, rfl⟩ | ⟨_, rfl⟩⟩ := execOpen_next h
    · exact hs.of_bookkeeping ..
    · exact (hs.openTransport hclosed hconf).of_bookkeeping ..
  case closeOp rc =>
    obtain ⟨_, _, rfl⟩ := execClose_next h
    exact hs.closeTransport.of_bookkeeping ..
  case registerHandler k =>
    obtain ⟨_, _, rfl⟩ := execRegisterHandler_next h
    exact hs.of_bookkeeping ..
  case canSendNow ty =>
    obtain ⟨_, rfl⟩ := execCanSendNow_next (ty := ty) h
    exact hs.of_bookkeeping ..
  case sendPacket ty p n =>
    obtain ⟨_, _, hopen, hp, _, _, hend, _, rfl⟩ := execSendPacket_next h
    have hslot : p - 1 + [ty].length ≤ s.params.cap := by simp only [List.length_singleton]; omega
    exact ((hs.memFill hslot).setTransmit hopen (some _)).of_bookkeeping ..
  case setBaudrate r rc =>
    obtain ⟨_, _, rfl⟩ := execSetBaudrate_next h
    exact hs.of_bookkeeping ..
  case txDone =>
    obtain ⟨_, hopen, _, rfl⟩ := execTxDone_next h
    exact (hs.setTransmit hopen none).of_bookkeeping ..

/-- At power-on (R36) the transport is closed, so nothing is asked of the cursor, and the buffer lists no byte. -/
theorem reset_inv : Inv State.reset where
  admitted := by decide
  bufCanonical := rfl
  bufInRange := nofun
  oneRead := nofun
  closedQuiet := fun _ => ⟨rfl, rfl⟩
  gateIffTransmit := rfl
  openedConfigured := nofun
  cursorRow := nofun
  cursorBound := nofun

end Sys2Proof.Machine
end

section
/-! PROOF. The state statements (10_state.md). -/

namespace Sys2Proof.Machine

/-- Settles O40: a step is idle, an instruction on the state with its input taken, or a store inside `BUF`. -/
theorem stepsKeepTheInvariants : Obligations.StepsKeepTheInvariants := by
  intro s t hs h
  obtain ⟨_, rfl⟩ | ⟨_, _, _, hexec⟩ | ⟨_, _, _, hstore⟩ := step_cases h
  · exact hs
  · exact exec_keeps_inv (hs.of_bookkeeping ..) hexec
  · obtain ⟨_, hin, _, _, rfl⟩ := consumerStore_next hstore
    exact (hs.memFill hin).of_bookkeeping ..

/-- Settles O37: the read a step requests is the one its new cursor describes, and the new state keeps the bound of R24. -/
theorem everyReadRequestFitsTheBuffer : Obligations.EveryReadRequestFitsTheBuffer := by
  intro i s t pos n hs h hreq
  obtain ⟨hopen, rfl, rfl⟩ := exec_readReq h hreq
  have hview : t.readPos + t.bytesToRead ≤ 1 + s.params.mps :=
    exec_params_eq h ▸ (exec_keeps_inv hs h).cursorBound hopen
  exact ⟨hview, phys_range hview⟩

/-- Settles O39: the transport is closed and nothing is outstanding, so every other premise fails. -/
theorem resetKeepsTheInvariants : Obligations.ResetKeepsTheInvariants :=
  ⟨reset_inv, nofun, nofun, nofun, rfl, rfl, rfl, rfl, rfl, rfl, rfl⟩

/-- Settles O35: a receive step keeps all but the buffer, the framer's elements and the history; for every other instruction
the elements that differ are read off the state its inversion lemma gives. -/
theorem onlyTheNamedStimuliWriteEachElement : Obligations.OnlyTheNamedStimuliWriteEachElement := by
  intro i s t h
  have hist := exec_history_grows h
  by_cases hi : isReceive i = true
  · obtain ⟨r⟩ := exec_receiveStep hi h
    rw [show t = _ from r.sameButFramer] at hist ⊢
    simp [hi, hist, memFill]
  cases i <;> simp only [isReceive, not_true_eq_false] at hi
  case initOp cfg =>
    obtain ⟨_, _, ⟨c, rfl, rfl⟩ | ⟨_, rfl⟩⟩ := execInit_next h
    · simp
    · simp
  case openOp rc =>
    obtain ⟨_, _, _, ⟨_, rfl⟩ | ⟨rfl, rfl⟩⟩ := execOpen_next h
    · simp
    · simp [clearGate]
  case closeOp rc =>
    obtain ⟨_, _, rfl⟩ := execClose_next h
    simp [clearGate]
  case registerHandler k =>
    obtain ⟨_, _, rfl⟩ := execRegisterHandler_next h
    simp
  case canSendNow ty =>
    obtain ⟨_, rfl⟩ := execCanSendNow_next (ty := ty) h
    simp
  case sendPacket ty p n =>
    obtain ⟨_, _, _, _, _, _, _, _, rfl⟩ := execSendPacket_next h
    simp [startTransmit, setGate, memWrite]
  case setBaudrate r rc =>
    obtain ⟨_, _, rfl⟩ := execSetBaudrate_next h
    simp
  case txDone =>
    obtain ⟨_, _, _, rfl⟩ := execTxDone_next h
    simp [clearGate]

end Sys2Proof.Machine
end

section
/-! SUPPORT. What the proofs of the memory statements (20_memory.md) rest on: which offsets each instruction writes. -/

namespace Sys2Proof.Machine

/-- A receive step writes inside the outstanding read only. -/
theorem ReceiveStep.read_outside {s t : State} (r : ReceiveStep s t) {a : Nat}
    (ha : ¬ (s.phys r.q.pos ≤ a ∧ a < s.phys r.q.pos + r.q.n)) : Memory.read t.buf a = Memory.read s.buf a := by
  have hbuf : t.buf = Memory.fill s.buf (s.phys r.q.pos) r.d := congrArg State.buf r.sameButFramer
  rw [hbuf, Memory.read_fill, r.size, if_neg ha]

@[simp] theorem startTransmit_buf (s : State) (ty : Byte) (p n : Nat) :
    (startTransmit ty p n s).buf = Memory.set s.buf (p - 1) ty := rfl

/-- Beside the receive path and SEND_PACKET no instruction writes the buffer. -/
theorem exec_buf_eq {i : Instr} {s t : State} (hi : isReceive i = false) (hsend : ∀ ty p n, i ≠ .sendPacket ty p n)
    (h : exec i s = .next t) : t.buf = s.buf := by
  cases i <;> simp only [isReceive, Bool.true_eq_false] at hi
  case initOp cfg => obtain ⟨_, _, ⟨_, _, rfl⟩ | ⟨_, rfl⟩⟩ := execInit_next h <;> rfl
  case openOp rc => obtain ⟨_, _, _, ⟨_, rfl⟩ | ⟨_, rfl⟩⟩ := execOpen_next h <;> rfl
  case closeOp rc => obtain ⟨_, _, rfl⟩ := execClose_next h; rfl
  case registerHandler k => obtain ⟨_, _, rfl⟩ := execRegisterHandler_next h; rfl
  case canSendNow ty => obtain ⟨_, rfl⟩ := execCanSendNow_next (ty := ty) h; rfl
  case sendPacket ty p n => exact absurd rfl (hsend ty p n)
  case setBaudrate r rc => obtain ⟨_, _, rfl⟩ := execSetBaudrate_next h; rfl
  case txDone => obtain ⟨_, _, _, rfl⟩ := execTxDone_next h; rfl

end Sys2Proof.Machine
end

section
/-! PROOF. The writers of the buffer (20_memory.md R56). -/

namespace Sys2Proof.Machine

/-- Settles O36: a receive step fills the outstanding read, SEND_PACKET sets its tag slot, every other instruction keeps the
buffer. -/
theorem onlyTheTagSlotAndTheReadAreWritten : Obligations.OnlyTheTagSlotAndTheReadAreWritten := by
  intro i s t h a hne
  by_cases hi : isReceive i = true
  · obtain ⟨r⟩ := exec_receiveStep hi h
    obtain ⟨hlo, hhi⟩ := not_not.1 fun hout => hne (r.read_outside hout)
    exact .inr ⟨hi, r.q, r.request, hlo, hhi⟩
  by_cases hsend : ∃ ty p n, i = .sendPacket ty p n
  · obtain ⟨ty, p, n, rfl⟩ := hsend
    obtain ⟨_, _, _, _, _, _, _, _, rfl⟩ := execSendPacket_next h
    refine .inl ⟨ty, p, n, rfl, not_not.1 fun ha => hne ?_⟩
    rw [startTransmit_buf, Memory.read_set, if_neg ha]
  · have hbuf : t.buf = s.buf := exec_buf_eq (by simpa using hi) (by simpa using hsend) h
    exact absurd (by rw [hbuf]) hne

end Sys2Proof.Machine
end

section
/-! SUPPORT. What of the packet being received and of the transmit in flight depends on which bytes, and how each kind of step
keeps both. -/

namespace Sys2Proof.Machine

/-! ### Offsets of a window -/

/-- Ranges that do not meet share no offset. -/
theorem Window.not_shared {v w : Window} (h : v.meets w = false) {x : Nat} (hlo : w.lo ≤ x) (hhi : x < w.hi) :
    ¬ (v.lo ≤ x ∧ x < v.hi) := by
  rintro ⟨hvlo, hvhi⟩
  have hmeets : v.meets w = true := (Window.meets_iff v w).2 ⟨x, hvlo, hvhi, hlo, hhi⟩
  rw [h] at hmeets
  cases hmeets

/-- A store writes no offset of a window it does not meet. -/
theorem read_memFill_of_not_meets {a x : Nat} {d : List Byte} {w : Window} (s : State)
    (hfree : (Window.mk a (a + d.length)).meets w = false) (hlo : w.lo ≤ x) (hhi : x < w.hi) :
    Memory.read (memFill a d s).buf x = Memory.read s.buf x := by
  rw [memFill_buf, Memory.read_fill, if_neg (Window.not_shared hfree hlo hhi)]

/-! ### The packet being received: what it depends on -/

/-- `t` is in the middle of the same packet as the open state `s`: the framer's registers and the bytes received so far are
those of `s`. -/
structure SamePacket (s t : State) : Prop where
  opened : s.opened = true
  frameState : t.frameState = s.frameState
  readPos : t.readPos = s.readPos
  bytesToRead : t.bytesToRead = s.bytesToRead
  params : t.params = s.params
  bytes : ∀ i, i < s.readPos → Memory.read t.buf (s.phys i) = Memory.read s.buf (s.phys i)

section
variable {s t : State}

theorem SamePacket.phys_eq (h : SamePacket s t) (i : Nat) : t.phys i = s.phys i := by
  simp only [State.phys, h.params]

theorem SamePacket.logical_eq (h : SamePacket s t) {i : Nat} (hi : i < s.readPos) : t.logical i = s.logical i := by
  rw [State.logical, h.phys_eq]
  exact byteAt_congr _ (h.bytes i hi)

theorem aclLen_eq (s : State) : aclLen s = le16 (s.logical 3) (s.logical 4) := rfl

theorem SamePacket.filled (h : SamePacket s t) (hs : Filled s) : Filled t := by
  intro _ i hi
  rw [h.readPos] at hi
  rw [h.phys_eq, h.bytes i hi]
  exact hs h.opened i hi

/-- In every cursor row the tag and the header bytes examined so far lie below the cursor. -/
theorem SamePacket.headerAgrees (h : SamePacket s t) (hrow : CursorRow s) (hs : HeaderAgrees s) : HeaderAgrees t := by
  intro _
  have hs := hs h.opened
  have htag (hpos : 0 < s.readPos) : t.logical 0 = s.logical 0 := h.logical_eq hpos
  rw [h.frameState, h.readPos, h.bytesToRead, h.params]
  unfold CursorRow at hrow
  cases hfs : s.frameState <;> simp only [hfs] at hs hrow ⊢
  case awaitingEventHeader | awaitingAclHeader | awaitingScoHeader => exact (htag (by omega)).trans hs
  case awaitingPayload =>
    obtain ⟨hevent, hacl, hsco⟩ := hs
    refine ⟨fun hpos => ?_, fun hpos => ?_, fun hpos => ?_⟩
    · rw [htag (by omega), eventLen, h.logical_eq (by omega)]
      exact hevent hpos
    · rw [htag (by omega), aclLen_eq, h.logical_eq (by omega), h.logical_eq (by omega)]
      exact hacl hpos
    · rw [htag (by omega), scoLen, h.logical_eq (by omega)]
      exact hsco hpos

/-- With the framer waiting for a tag nothing has been received and nothing is latched. -/
theorem filled_headerAgrees_of_awaitingType (hfs : t.frameState = .awaitingType) (hpos : t.readPos = 0) :
    Filled t ∧ HeaderAgrees t := by
  constructor
  · intro _ i hi
    omega
  · intro _
    rw [hfs]
    trivial

/-! ### The packet being received: the receive path -/

@[simp] theorem accepted_phys (q : ReadRequest) (d : List Byte) (i : Nat) : (accepted q d s).phys i = s.phys i := rfl

theorem accepted_read_below (q : ReadRequest) (d : List Byte) {i : Nat} (hi : i < q.pos) :
    Memory.read (accepted q d s).buf (s.phys i) = Memory.read s.buf (s.phys i) := by
  have hout : ¬ (s.phys q.pos ≤ s.phys i ∧ s.phys i < s.phys q.pos + d.length) := by
    simp only [State.phys]; omega
  rw [accepted_buf, Memory.read_fill, if_neg hout]

theorem accepted_logical_below (q : ReadRequest) (d : List Byte) {i : Nat} (hi : i < q.pos) :
    (accepted q d s).logical i = s.logical i :=
  byteAt_congr _ (accepted_read_below q d hi)

/-- The block of the outstanding read continues the packet's bytes without a gap. -/
theorem accepted_filled {d : List Byte} (hs : Filled s) (hsize : d.length = s.bytesToRead) :
    Filled (accepted ⟨s.readPos, s.bytesToRead⟩ d s) := by
  intro hopen i hi
  rw [accepted_readPos] at hi
  rw [accepted_phys]
  by_cases hold : i < s.readPos
  · rw [accepted_read_below _ d hold]
    exact hs hopen i hold
  · have hin : s.phys s.readPos ≤ s.phys i ∧ s.phys i < s.phys s.readPos + d.length := by
      simp only [State.phys]; omega
    have hlt : s.phys i - s.phys s.readPos < d.length := by omega
    rw [accepted_buf, Memory.read_fill, if_pos hin, List.getElem?_eq_getElem hlt, Option.isSome_some]

/-- A framer's case either keeps the cursor and the bytes, or has the framer wait for a tag. -/
theorem FrameCase.filled {fs : FrameState} {s1 s2 : State} (h : FrameCase fs s1 s2) (hs : Filled s1) : Filled s2 := by
  cases h with
  | header n fs' _ _ => exact hs
  | length n _ => exact hs
  | cause c _ => exact (filled_headerAgrees_of_awaitingType rfl rfl).1
  | packet _ _ => exact (filled_headerAgrees_of_awaitingType rfl rfl).1

/-- What a framer's case latches is read from the buffer it leaves; the tag below a header is the one that was latched. -/
theorem FrameCase.headerAgrees {s2 : State} {d : List Byte} (hopen : s.opened = true) (hrow : CursorRow s)
    (hs : HeaderAgrees s) (h : FrameCase s.frameState (accepted ⟨s.readPos, s.bytesToRead⟩ d s) s2) :
    HeaderAgrees s2 := by
  have hs := hs hopen
  unfold CursorRow at hrow
  have htag (hpos : 0 < s.readPos) : (accepted ⟨s.readPos, s.bytesToRead⟩ d s).logical 0 = s.logical 0 :=
    accepted_logical_below ⟨s.readPos, s.bytesToRead⟩ d hpos
  cases h with
  | header n fs' _ hn =>
    intro _
    obtain ⟨_, rfl, hl⟩ | ⟨_, rfl, hl⟩ | ⟨_, rfl, hl⟩ := hn <;> exact hl
  | length n hn =>
    intro _
    obtain ⟨hfs, rfl⟩ | ⟨hfs, rfl, _⟩ | ⟨hfs, rfl⟩ := hn <;> simp only [hfs] at hs hrow <;>
      obtain ⟨hpos, hlen⟩ := hrow
    · exact ⟨fun _ => ⟨(htag (by omega)).trans hs, rfl⟩, fun h5 => by simp [hpos, hlen] at h5,
        fun h4 => by simp [hpos, hlen] at h4⟩
    · exact ⟨fun h3 => by simp [hpos, hlen] at h3, fun _ => ⟨(htag (by omega)).trans hs, rfl⟩,
        fun h4 => by simp [hpos, hlen] at h4⟩
    · exact ⟨fun h3 => by simp [hpos, hlen] at h3, fun h5 => by simp [hpos, hlen] at h5,
        fun _ => ⟨(htag (by omega)).trans hs, rfl⟩⟩
  | cause c _ => exact (filled_headerAgrees_of_awaitingType rfl rfl).2
  | packet _ _ => exact (filled_headerAgrees_of_awaitingType rfl rfl).2

theorem ReceiveStep.keeps_header (r : ReceiveStep s t) (hinv : Inv s) (hf : Filled s) (hh : HeaderAgrees s) :
    Filled t ∧ HeaderAgrees t := by
  obtain ⟨q, d, s2, _, hopen, hreq, hsize, _, _, hcase, rfl⟩ := r
  obtain rfl : (⟨s.readPos, s.bytesToRead⟩ : ReadRequest) = q :=
    Option.some.inj ((hinv.oneRead hopen).symm.trans hreq)
  have hh2 : HeaderAgrees s2 := hcase.headerAgrees hopen (hinv.cursorRow hopen) hh
  exact ⟨hcase.filled (accepted_filled hf hsize), hh2⟩

end

/-! ### The packet being received: every instruction and the store -/

/-- An instruction that neither receives nor opens, and leaves the transport open, keeps the packet being received: its
registers because no other stimulus writes them (R38), its bytes because a tag slot lies in the pre-buffer (R56, P3). -/
theorem exec_samePacket {i : Instr} {s t : State} (hi : isReceive i = false) (hopen : i ≠ .openOp 0)
    (h : exec i s = .next t) (ht : t.opened = true) : SamePacket s t := by
  obtain ⟨hframer, _, _, hopened, _, _, hparams, _, _⟩ := onlyTheNamedStimuliWriteEachElement i s t h
  have hregs : ¬ (t.frameState ≠ s.frameState ∨ t.readPos ≠ s.readPos ∨ t.bytesToRead ≠ s.bytesToRead) := fun hne =>
    (hframer hne).elim (by simp [hi]) hopen
  push Not at hregs
  obtain ⟨hfs, hpos, hlen⟩ := hregs
  refine ⟨?_, hfs, hpos, hlen, hparams, fun j _ => not_not.1 fun hne => ?_⟩
  · by_contra hs
    obtain ⟨rfl, _⟩ | ⟨_, _, hclosed⟩ := hopened (by simp [ht, hs])
    · exact hopen rfl
    · simp [ht] at hclosed
  · obtain ⟨ty, p, n, rfl, hslot⟩ | ⟨hrx, _⟩ := onlyTheTagSlotAndTheReadAreWritten i s t h _ hne
    · obtain ⟨_, _, _, _, hp, _⟩ := execSendPacket_next h
      simp only [State.phys] at hslot
      omega
    · simp [hi] at hrx

/-- A store keeps the packet being received, which lies in the RX window. -/
theorem memFill_samePacket {a : Nat} {d : List Byte} {s : State} (ho : s.opened = true)
    (hfree : (Window.mk a (a + d.length)).meets (rxWindow s) = false) : SamePacket s (memFill a d s) := by
  refine ⟨ho, rfl, rfl, rfl, rfl, fun i hi => ?_⟩
  refine read_memFill_of_not_meets s hfree ?_ ?_ <;> simp only [rxWindow, ho, if_true, State.phys] <;> omega

/-- Where the packet being received is kept, so is what the framer knows of it. -/
theorem keeps_header_of_samePacket {s t : State} (hsame : t.opened = true → SamePacket s t) (hinv : Inv s)
    (hf : Filled s) (hh : HeaderAgrees s) : Filled t ∧ HeaderAgrees t :=
  ⟨fun ht => (hsame ht).filled hf ht,
    fun ht => (hsame ht).headerAgrees (hinv.cursorRow (hsame ht).opened) hh ht⟩

theorem exec_keeps_header {i : Instr} {s t : State} (h : exec i s = .next t) (hinv : Inv s) (hf : Filled s)
    (hh : HeaderAgrees s) : Filled t ∧ HeaderAgrees t := by
  by_cases hi : isReceive i = true
  · obtain ⟨r⟩ := exec_receiveStep hi h
    exact r.keeps_header hinv hf hh
  by_cases hopen : i = .openOp 0
  · subst hopen
    obtain ⟨_, _, _, ⟨hrc, _⟩ | ⟨_, rfl⟩⟩ := execOpen_next h
    · exact absurd rfl hrc
    · exact filled_headerAgrees_of_awaitingType rfl rfl
  · exact keeps_header_of_samePacket (exec_samePacket (by simpa using hi) hopen h) hinv hf hh

/-! ### The transmit in flight (R235, R236) -/

/-- The snapshot speaks of the outstanding write, the size of the pre-buffer and the bytes in the TX window. -/
theorem SnapshotHolds.of_same {s t : State} (hs : SnapshotHolds s) (htx : t.txReq = s.txReq)
    (hparams : t.params = s.params)
    (hbytes : ∀ q, s.txReq = some q → ∀ a, q.addr ≤ a → a < q.addr + q.n → Memory.read t.buf a = Memory.read s.buf a) :
    SnapshotHolds t := by
  intro q hq
  rw [htx] at hq
  obtain ⟨hn, hpb, hsnap⟩ := hs q hq
  exact ⟨hn, hparams ▸ hpb, (bytesAt_congr _ _ (hbytes q hq)).trans hsnap⟩

theorem snapshotHolds_of_no_txReq {t : State} (h : t.txReq = none) : SnapshotHolds t := by
  intro q hq
  rw [h] at hq
  cases hq

/-- SEND_PACKET fixes the bytes it leaves in the buffer. -/
theorem startTransmit_snapshotHolds {ty : Byte} {p n : Nat} {s : State} (hp : 1 ≤ p) (hend : p + n ≤ s.params.pb) :
    SnapshotHolds (startTransmit ty p n s) := by
  intro q hq
  cases hq
  have hpb : p - 1 + (n + 1) ≤ s.params.pb := by omega
  exact ⟨n.succ_pos, hpb, bytesAt_congr _ _ fun _ _ _ => rfl⟩

/-- While open the RX window is not empty: it begins at `L[0]`. -/
theorem CursorRow.window_pos {s : State} (h : CursorRow s) : 0 < s.readPos + s.bytesToRead := by
  unfold CursorRow at h
  split at h <;> omega

/-- A send window that begins in the pre-buffer and does not meet the RX window (P3, P5) ends in the pre-buffer. -/
theorem sendWindow_in_preBuffer {p n : Nat} {s : State} (hrow : CursorRow s) (ho : s.opened = true)
    (hp : p ≤ s.params.pb) (hfree : (sendWindow p n).meets (rxWindow s) = false) : p + n ≤ s.params.pb := by
  have hpos := hrow.window_pos
  have hrx : rxWindow s = ⟨s.params.pb, s.params.pb + s.readPos + s.bytesToRead⟩ := if_pos ho
  have hout := Window.not_shared hfree (x := s.params.pb) (by simp [hrx]) (by simp only [hrx]; omega)
  simp only [sendWindow] at hout
  omega

/-- SEND_PACKET makes its snapshot; TX_DONE and CLOSE end the transmit; every other instruction keeps it, since a receive
step writes above the pre-buffer. -/
theorem exec_keeps_snapshot {i : Instr} {s t : State} (hinv : Inv s) (hs : SnapshotHolds s) (h : exec i s = .next t) :
    SnapshotHolds t := by
  by_cases hsend : ∃ ty p n, i = .sendPacket ty p n
  · obtain ⟨ty, p, n, rfl⟩ := hsend
    obtain ⟨_, _, ho, hp, hpb, _, _, hfree, rfl⟩ := execSendPacket_next h
    exact startTransmit_snapshotHolds hp (sendWindow_in_preBuffer (hinv.cursorRow ho) ho hpb hfree)
  obtain ⟨_, _, _, _, _, htx, hparams, _, _⟩ := onlyTheNamedStimuliWriteEachElement i s t h
  by_cases hsame : t.txReq = s.txReq
  · refine hs.of_same hsame hparams fun q hq a _ hhi => not_not.1 fun hne => ?_
    obtain ⟨_, hpb, _⟩ := hs q hq
    obtain ⟨ty, p, n, hi, _⟩ | ⟨_, r, _, hlo, _⟩ := onlyTheTagSlotAndTheReadAreWritten i s t h a hne
    · exact hsend ⟨ty, p, n, hi⟩
    · omega
  · obtain rfl | ⟨rc, rfl⟩ | hi := htx hsame
    · obtain ⟨_, _, _, rfl⟩ := execTxDone_next h
      exact snapshotHolds_of_no_txReq rfl
    · obtain ⟨_, _, rfl⟩ := execClose_next h
      exact snapshotHolds_of_no_txReq rfl
    · exact absurd hi hsend

/-- A store keeps the transmit in flight, which is the TX window. -/
theorem memFill_keeps_snapshot {a : Nat} {d : List Byte} {s : State} (hs : SnapshotHolds s)
    (hfree : (Window.mk a (a + d.length)).meets (txWindow s) = false) : SnapshotHolds (memFill a d s) := by
  refine hs.of_same rfl rfl fun q hq x hlo hhi => ?_
  have htx : txWindow s = ⟨q.addr, q.addr + q.n⟩ := by simp only [txWindow, hq]
  rw [htx] at hfree
  exact read_memFill_of_not_meets s hfree hlo hhi

end Sys2Proof.Machine
end

section
/-! PROOF. The step lemmas of the two windows (20_memory.md R57, R64, R66; 70_reset_and_hazards.md R235, R236). -/

namespace Sys2Proof.Machine

/-- Settles O41: a step is idle, an instruction on the state with its input taken, or a store outside the RX window. -/
theorem stepsKeepTheHeaderInAgreement : Obligations.StepsKeepTheHeaderInAgreement := by
  intro s t hinv hf hh h
  obtain ⟨_, rfl⟩ | ⟨_, _, _, hexec⟩ | ⟨_, _, _, hstore⟩ := step_cases h
  · exact ⟨hf, hh⟩
  · exact exec_keeps_header hexec (hinv.of_bookkeeping ..) hf hh
  · obtain ⟨_, _, hrx, _, rfl⟩ := consumerStore_next hstore
    exact keeps_header_of_samePacket (fun ho => memFill_samePacket ho hrx) (hinv.of_bookkeeping ..) hf hh

/-- Settles O42: a step is idle, an instruction on the state with its input taken, or a store outside the TX window. -/
theorem stepsKeepTheTransmitBytes : Obligations.StepsKeepTheTransmitBytes := by
  intro s t hinv hs h
  have htaken (ins : List Input) (w : Bool) : SnapshotHolds { s with inputs := ins, handlerWindow := w } :=
    hs.of_same rfl rfl fun _ _ _ _ _ => rfl
  obtain ⟨_, rfl⟩ | ⟨_, _, _, hexec⟩ | ⟨_, _, _, hstore⟩ := step_cases h
  · exact hs
  · exact exec_keeps_snapshot (hinv.of_bookkeeping ..) (htaken _ _) hexec
  · obtain ⟨_, _, _, htx, rfl⟩ := consumerStore_next hstore
    exact memFill_keeps_snapshot (htaken _ _) htx

end Sys2Proof.Machine
end

section
/-! SUPPORT. What the proofs of the encoding statements (30_encoding.md) rest on: how the decoder acts on each of the two code
spaces, and how a packet's payload is split off. -/

namespace Sys2Proof

/-! ### Selection words (R90 to R92) -/

section
variable {p : Params} {sel : BitVec 7} {x : Operand} {i : Instr} {k : StimulusKind}

theorem decode_port_of_select (hk : selectKind sel = some k) (hb : build k x = some i) :
    decode p (.port sel x) = .ok i := by
  simp only [decode, hk, hb]

/-- A selection word decodes only by selecting a row whose operand type its operand has. -/
theorem decode_port_ok (h : decode p (.port sel x) = .ok i) : ∃ k, selectKind sel = some k ∧ build k x = some i := by
  simp only [decode] at h
  split at h
  case h_1 => split at h <;> cases h
  case h_2 k hk =>
    split at h
    · rename_i j hb
      cases h
      exact ⟨k, hk, hb⟩
    · cases h

/-- The encoder writes the row's word and the operand the row was built from. -/
theorem encode_of_build (h : build k x = some i) : encode p i = .port k.word x := by
  cases k <;> cases x <;> cases h <;> rfl

end

/-- A row's word has the operation code of every word that selects the row, and for RX_DONE it is the only such word. -/
theorem word_of_select : ∀ (sel : BitVec 7), ∀ k ∈ selectKind sel,
    selOp k.word = selOp sel ∧ (selOp sel = 8 → k.word = sel) := by
  decide

@[simp] theorem selOp_selWord (op : BitVec 4) (fs : BitVec 3) : selOp (selWord op fs) = op := by
  revert op fs; decide

@[simp] theorem selFs_selWord (op : BitVec 4) (fs : BitVec 3) : selFs (selWord op fs) = fs := by
  revert op fs; decide

/-- The selection words that select a row. -/
theorem selectKind_selWord_isSome : ∀ (op : BitVec 4) (fs : BitVec 3),
    (selectKind (selWord op fs)).isSome = true ↔ op ≠ 7 ∧ op.toNat < 10 ∧ (op = 8 → fs.toNat < 5) := by
  decide

/-- The name under which a word that selects no row is rejected. -/
theorem decode_port_of_unassigned {p : Params} {op : BitVec 4} {fs : BitVec 3} {x : Operand}
    (h : ¬ (selectKind (selWord op fs)).isSome = true) :
    decode p (.port (selWord op fs) x) =
      if op = 8 then .error (.unassignedFrameState fs) else .error (.unassignedOperation op) := by
  rw [Option.not_isSome_iff_eq_none] at h
  simp only [decode, h, selOp_selWord, selFs_selWord]

/-! ### Tag bytes (R81, R86) -/

theorem decodeTag_event (p : Params) : decodeTag p tagEvent = .pktEvent := by simp only [decodeTag, tagKind_event]

theorem decodeTag_acl (p : Params) : decodeTag p tagAcl = .pktAcl := by simp only [decodeTag, tagKind_acl]

theorem decodeTag_sco {p : Params} (h : p.admitted = true) : decodeTag p p.tagSco = .pktSco := by
  simp only [decodeTag, tagKind_sco h]

theorem decodeTag_invalid {p : Params} {b : Byte} (he : b ≠ tagEvent) (ha : b ≠ tagAcl) (hs : b ≠ p.tagSco) :
    decodeTag p b = .pktInvalid b := by
  simp only [decodeTag, tagKind_invalid.2 ⟨he, ha, hs⟩]

/-! ### Payloads (R85) -/

/-- A payload of the declared length is split off whatever follows it. -/
theorem takePayload_append (d rest : List Byte) (mk : List Byte → Packet) :
    takePayload d.length (d ++ rest) mk = .ok (mk d, rest) := by
  simp [takePayload]

end Sys2Proof
end

section
/-! PROOF. The encoding statements (30_encoding.md R80 to R93). -/

namespace Sys2Proof

/-- Settles O1: a stimulus is encoded by the word of its row, which selects that row, beside the operand it is built from; a
wire row by a byte that has that row's kind of tag. -/
theorem decodeOfEncodeIsTheInstruction : Obligations.DecodeOfEncodeIsTheInstruction := by
  intro p i hadm hwf
  have stimulus {k : StimulusKind} {x : Operand} {i : Instr} (hb : build k x = some i) :
      decode p (.port k.word x) = .ok i := decode_port_of_select (selectKind_word k) hb
  cases i
  case pktEvent => exact congrArg Except.ok (decodeTag_event p)
  case pktAcl => exact congrArg Except.ok (decodeTag_acl p)
  case pktSco => exact congrArg Except.ok (decodeTag_sco hadm)
  case pktInvalid b =>
    simp only [Instr.wellFormed, Bool.and_eq_true, decide_eq_true_eq] at hwf
    obtain ⟨hevent, hacl, hsco⟩ := hwf
    exact congrArg Except.ok (decodeTag_invalid hevent hacl hsco)
  all_goals exact stimulus rfl

/-- Settles O2: the word selects the row that the encoder's word names, and two words of one row differ in ignored bits only. -/
theorem encodeOfDecodeKeepsTheWord : Obligations.EncodeOfDecodeKeepsTheWord := by
  intro p sel x i h
  obtain ⟨k, hk, hb⟩ := decode_port_ok h
  exact ⟨k.word, encode_of_build hb, word_of_select sel k hk⟩

/-- Settles O3: which words select a row is a fact about the table; the decoder rejects the others by their `OP`. -/
theorem unassignedSelectionsAreRejected : Obligations.UnassignedSelectionsAreRejected := by
  intro p op fs x
  have selects := selectKind_selWord_isSome op fs
  refine ⟨fun hop => ?_, fun hop hfs => ?_, fun h7 h10 h8 => selects.2 ⟨h7, h10, h8⟩⟩
  · have hne : op ≠ 8 := by rintro rfl; revert hop; decide
    rw [decode_port_of_unassigned, if_neg hne]
    rw [selects]
    rintro ⟨h7, h10, _⟩
    exact hop.elim h7 h10.not_ge
  · rw [decode_port_of_unassigned, if_pos hop]
    rw [selects]
    rintro ⟨_, _, h8⟩
    exact (h8 hop).not_ge hfs

/-- Settles O4, one lemma per kind of tag byte. -/
theorem everyTagByteHasOneRow : Obligations.EveryTagByteHasOneRow := by
  intro p b hadm
  refine ⟨?_, ?_, ?_, fun hevent hacl hsco => congrArg Except.ok (decodeTag_invalid hevent hacl hsco)⟩
  · rintro rfl
    exact congrArg Except.ok (decodeTag_event p)
  · rintro rfl
    exact congrArg Except.ok (decodeTag_acl p)
  · rintro rfl
    exact congrArg Except.ok (decodeTag_sco hadm)

/-- Settles O5: the decoder runs on each of the eight words. -/
theorem tableWordsDecodeToTheirRows : Obligations.TableWordsDecodeToTheirRows := by
  unfold Obligations.TableWordsDecodeToTheirRows
  decide

/-- Settles O6: the tag selects the format, the length field holds the payload's length, which fits it, and the payload of
that length is split off. -/
theorem packetBytesParseBack : Obligations.PacketBytesParseBack := by
  intro p k rest hadm hwf
  cases k with
  | event code d =>
    simp only [Packet.wellFormed, decide_eq_true_eq] at hwf
    simp only [Packet.bytes, Packet.tag, Packet.body, List.cons_append, parsePacket, tagKind_event, lenLow_toNat hwf,
      takePayload_append]
  | acl h0 h1 d =>
    simp only [Packet.wellFormed, Bool.and_eq_true, decide_eq_true_eq] at hwf
    obtain ⟨hlen, hfit⟩ := hwf
    simp only [Packet.bytes, Packet.tag, Packet.body, List.cons_append, parsePacket, tagKind_acl, le16_split hlen,
      if_neg hfit.not_gt, takePayload_append]
  | sco h0 h1 d =>
    simp only [Packet.wellFormed, decide_eq_true_eq] at hwf
    simp only [Packet.bytes, Packet.tag, Packet.body, List.cons_append, parsePacket, tagKind_sco hadm, lenLow_toNat hwf,
      takePayload_append]

end Sys2Proof
end

section
/-! SUPPORT. What the proofs about the wire rows (30_encoding.md R93) rest on: each row is the arrival of its byte, with the
case of R113 for that byte; when an arrival is a step and when it has no move. -/

namespace Sys2Proof.Machine

/-! ### When a block is not accepted (40_receive_framer.md R112; log entry 9) -/

section
variable {fs : FrameState} {d : List Byte} {s : State}

theorem acceptBlock_of_closed (ho : s.opened = false) : acceptBlock fs d s = .error .driverEventWhileClosed := if_pos ho

theorem acceptBlock_of_other_frameState {q : ReadRequest} (ho : s.opened = true) (hr : s.rxReq = some q)
    (hl : d.length = q.n) (hz : q.n ≠ 0) (hf : s.frameState ≠ fs) : acceptBlock fs d s = .error .frameStateMismatch := by
  simp [acceptBlock, ho, hr, hl, hz, hf]

theorem rxDone_of_error {body : State → Except Fault State} {f : Fault} (ha : s.params.admitted = true)
    (h : acceptBlock fs d s = .error f) : rxDone fs d body s = .fault f := by
  simp only [rxDone, ifAdmitted_of ha, h]

/-- An RX_DONE runs its case on the state with the block accepted only. -/
theorem rxDone_congr {body body' : State → Except Fault State}
    (h : ∀ s1, acceptBlock fs d s = .ok s1 → body s1 = body' s1) : rxDone fs d body s = rxDone fs d body' s := by
  unfold rxDone
  cases ha : acceptBlock fs d s with
  | error f => rfl
  | ok s1 => simp only [h s1 ha]

end

/-! ### The case of R113, by the byte at `L[0]` -/

section
variable {s : State}

theorem typeCase_of_event (h : s.logical 0 = tagEvent) : typeCase s = expect hdrEvent .awaitingEventHeader s := by
  simp only [typeCase, h, tagKind_event]

theorem typeCase_of_acl (h : s.logical 0 = tagAcl) : typeCase s = expect hdrAcl .awaitingAclHeader s := by
  simp only [typeCase, h, tagKind_acl]

theorem typeCase_of_sco (hadm : s.params.admitted = true) (h : s.logical 0 = s.params.tagSco) :
    typeCase s = expect hdrSco .awaitingScoHeader s := by
  simp only [typeCase, h, tagKind_sco hadm]

theorem typeCase_of_invalid {b : Byte} (h : s.logical 0 = b) (hb : tagKind s.params b = .invalid) :
    typeCase s = raiseCause (.invalidTypeTag b) s := by
  simp only [typeCase, h, hb]

end

/-! ### A tag byte arrives -/

section
variable {b : Byte} {k : State → State} {s : State}

theorem tagArrives_of_no_tagRead (ha : s.params.admitted = true) (hr : s.rxReq ≠ some ⟨0, 1⟩) :
    tagArrives b k s = .fault .tagReadNotOutstanding := by
  rw [tagArrives, ifAdmitted_of ha, if_pos hr]

/-- The wire row of a byte is the arrival of the byte, and its case is the one R113 has for the byte at `L[0]`. -/
theorem exec_decodeTag (hadm : s.params.admitted = true) (b : Byte) :
    ∃ k, exec (decodeTag s.params b) s = tagArrives b k s ∧
      ∀ s1, s1.params = s.params → s1.logical 0 = b → typeCase s1 = k s1 := by
  cases hb : tagKind s.params b with
  | event =>
    obtain rfl := tagKind_eq_event.1 hb
    exact ⟨_, congrArg (exec · s) (decodeTag_event _), fun _ _ => typeCase_of_event⟩
  | acl =>
    obtain rfl := tagKind_eq_acl hb
    exact ⟨_, congrArg (exec · s) (decodeTag_acl _), fun _ _ => typeCase_of_acl⟩
  | sco =>
    obtain rfl := tagKind_eq_sco hb
    exact ⟨_, congrArg (exec · s) (decodeTag_sco hadm), fun s1 hp h => typeCase_of_sco (hp ▸ hadm) (hp ▸ h)⟩
  | invalid =>
    obtain ⟨hevent, hacl, hsco⟩ := tagKind_invalid.1 hb
    exact ⟨_, congrArg (exec · s) (decodeTag_invalid hevent hacl hsco), fun s1 hp h => typeCase_of_invalid h (hp ▸ hb)⟩

/-- From open idle an arrival runs its case on the state with the byte at `L[0]`. -/
theorem tagArrives_of_openIdle (ha : s.params.admitted = true) (hs : OpenIdle s) :
    tagArrives b k s = .next (issueRead (k (accepted ⟨0, 1⟩ [b] s))) := by
  obtain ⟨ho, hf, _, _, hr⟩ := hs
  have hrange : s.phys 0 + 1 ≤ s.params.cap := phys_range (Nat.le_add_right 1 _)
  rw [tagArrives_of ha hr]
  exact rxDone_of ha (acceptBlock_of ho hr rfl nofun hf hrange) rfl

/-- The arrival writes `L[0]` only. -/
theorem accepted_tag_read (b : Byte) (s : State) (a : Nat) :
    Memory.read (accepted ⟨0, 1⟩ [b] s).buf a = if a = s.params.pb then some b else Memory.read s.buf a :=
  Memory.read_set s.buf s.params.pb b a

/-- From open idle a tag's arrival stores it and requests its header; nothing else changes. -/
theorem tagArrives_expect {n : Nat} {fs : FrameState} (ha : s.params.admitted = true) (hs : OpenIdle s) :
    ∃ t, tagArrives b (expect n fs) s = .next t ∧
      t = { s with buf := t.buf, frameState := fs, readPos := 1, bytesToRead := n,
                   rxReq := some ⟨1, n⟩, history := s.history ++ [.readReq 1 n] } ∧
      ∀ a, Memory.read t.buf a = if a = s.params.pb then some b else Memory.read s.buf a := by
  refine ⟨_, tagArrives_of_openIdle ha hs, ?_, accepted_tag_read b s⟩
  obtain ⟨_, _, hpos, hlen, _⟩ := hs
  simp [issueRead, emit, expect, accepted, hpos, hlen]

end

end Sys2Proof.Machine
end

section
/-! PROOF. The statements about the wire rows (30_encoding.md R82 to R86, R93). -/

namespace Sys2Proof.Machine

/-- Settles O10: each of the three rows is the arrival of its tag, which requests its header. -/
theorem tagRowsStartTheirHeaders : Obligations.TagRowsStartTheirHeaders := fun _ hadm hidle =>
  ⟨tagArrives_expect hadm hidle, tagArrives_expect hadm hidle, tagArrives_expect hadm hidle⟩

/-- Settles O11: the row is the arrival of its byte, which logs it and resets the framer. -/
theorem invalidTagIsLoggedAndDiscarded : Obligations.InvalidTagIsLoggedAndDiscarded := by
  intro s b hadm hidle _ _ _
  refine ⟨_, tagArrives_of_openIdle hadm hidle, ?_, accepted_tag_read b s⟩
  simp [issueRead, emit, raiseCause, resetFramer, accepted]

/-- Settles O12: both accept the same block, and on the state with the byte at `L[0]` the row's case is that of R113. -/
theorem typeStimulusIsItsWireRow : Obligations.TypeStimulusIsItsWireRow := by
  intro s b hreq
  by_cases hadm : s.params.admitted = true
  · obtain ⟨k, hrow, hcase⟩ := exec_decodeTag hadm b
    rw [hrow, tagArrives_of hadm hreq]
    change rxDone .awaitingType [b] (fun s1 => .ok (typeCase s1)) s = _
    refine rxDone_congr fun s1 h1 => ?_
    obtain ⟨q, _, hq, _, _, _, _, rfl⟩ := acceptBlock_ok h1
    obtain rfl : (⟨0, 1⟩ : ReadRequest) = q := Option.some.inj (hreq.symm.trans hq)
    exact congrArg Except.ok (hcase _ rfl (accepted_tag b s))
  · rw [exec_of_not_admitted _ hadm, exec_of_not_admitted _ hadm]

/-- Settles O13: every wire row is an arrival, which tests the request first and then accepts its byte as RX_DONE does. -/
theorem wireRowsNeedTheTagRead : Obligations.WireRowsNeedTheTagRead := by
  intro s b hadm
  obtain ⟨k, hrow, _⟩ := exec_decodeTag hadm b
  rw [hrow]
  refine ⟨tagArrives_of_no_tagRead hadm, fun hreq ho => ?_, fun hreq ho hf => ?_⟩
  · rw [tagArrives_of hadm hreq]
    exact rxDone_of_error hadm (acceptBlock_of_closed ho)
  · rw [tagArrives_of hadm hreq]
    exact rxDone_of_error hadm (acceptBlock_of_other_frameState ho hreq rfl Nat.one_ne_zero hf)

end Sys2Proof.Machine
end

section
/-! SUPPORT. What the proofs about FEED (30_encoding.md R95) rest on: what one turn of its loop does to the framer, how turns
compose, and the turns that an item of the stream takes. A run is said with what it reports and what it leaves unchanged, once
for every statement about a stream. -/

namespace Sys2Proof.Machine

/-! ### The bytes of the current packet -/

/-- The bytes of the current packet received so far, `L[0 .. READ_POS-1]`. -/
def State.received (s : State) : List Byte := s.bytesAt (s.phys 0) s.readPos

theorem received_length (s : State) : s.received.length = s.readPos := bytesAt_length s _ _

/-- Latching a size and requesting the read keeps the bytes. -/
theorem received_issueRead_expect (n : Nat) (fs : FrameState) (s : State) :
    (issueRead (expect n fs s)).received = s.received :=
  bytesAt_congr _ _ fun _ _ _ => rfl

theorem bytesAt_getElem? (s : State) (a : Nat) {n i : Nat} (hi : i < n) :
    (s.bytesAt a n)[i]? = some (s.byteAt (a + i)) := by
  induction n generalizing a i with
  | zero => omega
  | succ n ih =>
    cases i with
    | zero => rfl
    | succ i =>
      rw [State.bytesAt, List.getElem?_cons_succ, ih (a + 1) (by omega), Nat.add_right_comm, Nat.add_assoc]

theorem logical_of_received {s : State} {bs : List Byte} {i : Nat} {b : Byte} (h : s.received = bs)
    (hb : bs[i]? = some b) : s.logical i = b := by
  have hi : i < s.readPos := by
    rw [← received_length, h]
    exact (List.getElem?_eq_some_iff.1 hb).1
  rw [← h, State.received, bytesAt_getElem? s _ hi, Option.some.injEq] at hb
  exact hb

/-- What the payload case dispatches (R117): the tag, and what follows it. -/
theorem payloadCase_of_received {s : State} {ty : Byte} {body : List Byte} (h : s.received = ty :: body)
    (hfit : body.length ≤ s.params.mps) :
    payloadCase s = .ok (resetFramer (dispatch ty (.inBuf (s.phys 1) body) body.length s)) := by
  have hpos : s.readPos = body.length + 1 := by rw [← received_length, h]; rfl
  have hcons : s.byteAt (s.phys 0) :: s.bytesAt (s.phys 1) body.length = ty :: body := by
    rw [← h, State.received, hpos]
    rfl
  obtain ⟨htag, hbody⟩ := List.cons.inj hcons
  rw [payloadCase_of (by omega), State.logical, htag, hpos, Nat.add_sub_cancel, hbody]

theorem aclLen_of_received {s : State} {b h0 h1 lo hi : Byte} (h : s.received = [b, h0, h1, lo, hi]) :
    aclLen s = le16 lo hi := by
  rw [aclLen_eq, logical_of_received h rfl, logical_of_received h rfl]

theorem aclCase_of_fits {s : State} (h : hdrAcl + aclLen s ≤ s.params.mps) :
    aclCase s = expect (aclLen s) .awaitingPayload s := if_pos (decide_eq_true h)

theorem aclCase_of_exceeds {s : State} (h : s.params.mps < hdrAcl + aclLen s) :
    aclCase s = raiseCause (.aclLengthExceedsCapacity (aclLen s)) s := if_neg (by simpa [aclFits] using h)

/-! ### One receive stimulus of FEED -/

/-- The framer's case in a frame state (R113 to R117). -/
def rxBody (fs : FrameState) (s : State) : Except Fault State :=
  match fs with
  | .awaitingType => .ok (typeCase s)
  | .awaitingEventHeader => .ok (expect (eventLen s) .awaitingPayload s)
  | .awaitingAclHeader => .ok (aclCase s)
  | .awaitingScoHeader => .ok (expect (scoLen s) .awaitingPayload s)
  | .awaitingPayload => payloadCase s

theorem exec_rxRow (fs : FrameState) (d : List Byte) (s : State) :
    exec (rxRow fs d) s = rxDone fs d (rxBody fs) s := by
  cases fs <;> rfl

theorem isReceive_rxRow (fs : FrameState) (d : List Byte) : isReceive (rxRow fs d) = true := by
  cases fs <;> rfl

/-- The framer waits in `fs` for `n` more bytes of a packet whose bytes so far are `bs`, that read being outstanding. -/
structure Awaits (bs : List Byte) (fs : FrameState) (n : Nat) (s : State) : Prop where
  opened : s.opened = true
  frameState : s.frameState = fs
  bytesToRead : s.bytesToRead = n
  request : s.rxReq = some ⟨s.readPos, s.bytesToRead⟩
  received : s.received = bs

theorem OpenIdle.awaits {s : State} (h : OpenIdle s) : Awaits [] .awaitingType 1 s := by
  obtain ⟨ho, hf, hpos, hlen, hr⟩ := h
  exact ⟨ho, hf, hlen, by rw [hpos, hlen, hr], by rw [State.received, hpos]; rfl⟩

theorem openIdle_issueRead_resetFramer {s : State} (ho : s.opened = true) : OpenIdle (issueRead (resetFramer s)) :=
  ⟨ho, rfl, rfl, rfl, rfl⟩

/-- The state in which the framer's case runs when FEED delivers the block `d`: the handler's turn is over, the block stored. -/
def blockTaken (d : List Byte) (s : State) : State :=
  accepted ⟨s.readPos, s.bytesToRead⟩ d { s with handlerWindow := false }

/-- The block continues the packet's bytes without a gap. -/
theorem Awaits.blockTaken_received {bs d : List Byte} {fs : FrameState} {s : State} (hs : Awaits bs fs d.length s) :
    (blockTaken d s).received = bs ++ d := by
  obtain ⟨_, _, hlen, _, rfl⟩ := hs
  have hsplit : (blockTaken d s).received =
      (blockTaken d s).bytesAt (s.phys 0) s.readPos ++ (blockTaken d s).bytesAt (s.phys s.readPos) d.length := by
    rw [← hlen]
    exact bytesAt_append _ _ _ _
  rw [hsplit]
  refine congrArg₂ (· ++ ·) (bytesAt_congr _ _ fun x _ hx => ?_) (bytesAt_of_read _ _ _ fun i hi => ?_)
  · have hout : ¬ (s.phys s.readPos ≤ x ∧ x < s.phys s.readPos + d.length) := by
      simp only [State.phys] at hx ⊢
      omega
    exact (Memory.read_fill ..).trans (if_neg hout)
  · refine (Memory.read_fill ..).trans ?_
    simp only [State.phys] at hi ⊢
    simp [hi]

/-- When the block of the outstanding read is delivered, the framer's case runs and the next read is issued. -/
theorem performRx_of_awaits {bs d : List Byte} {fs : FrameState} {s s2 : State} (hadm : s.params.admitted = true)
    (hz : s.params.zeroReadCompletes = true) (hs : Awaits bs fs d.length s)
    (hfit : bs.length + d.length ≤ 1 + s.params.mps) (hbody : rxBody fs (blockTaken d s) = .ok s2) :
    performRx d s = .next (issueRead s2) := by
  obtain ⟨ho, rfl, hlen, hr, rfl⟩ := hs
  rw [received_length, ← hlen] at hfit
  rw [performRx_eq, exec_rxRow]
  exact rxDone_of hadm (acceptBlock_of ho hr hlen.symm (fun _ => hz) rfl (phys_range hfit)) hbody

/-! ### Runs of the loop -/

/-- The loop of FEED, fed `d` in the state `s`, spends `turns` turns on it and is then in the state `t`, where `outs` have been
reported; only the block's bytes and what the receive path writes beside the buffer differ from `s`. -/
structure FeedRun (turns : Nat) (d : List Byte) (s : State) (outs : List Output) (t : State) : Prop where
  feeds : ∀ fuel rest, feedFuel (fuel + turns) (d ++ rest) s = feedFuel fuel rest t
  frame : SameButFramer { s with buf := t.buf } t
  preBuffer : ∀ a, a < s.params.pb → Memory.read t.buf a = Memory.read s.buf a
  reports : reports t.history = reports s.history ++ outs

section
variable {m n : Nat} {c d : List Byte} {outs outs' : List Output} {s t u : State}

theorem FeedRun.params_eq (h : FeedRun n d s outs t) : t.params = s.params := by
  rw [show t = _ from h.frame]

theorem FeedRun.handler_eq (h : FeedRun n d s outs t) : t.handler = s.handler := by
  rw [show t = _ from h.frame]

theorem FeedRun.inputs_eq (h : FeedRun n d s outs t) : t.inputs = s.inputs := by
  rw [show t = _ from h.frame]

theorem FeedRun.refl (s : State) : FeedRun 0 [] s [] s :=
  ⟨fun _ _ => rfl, rfl, fun _ _ => rfl, (List.append_nil _).symm⟩

theorem FeedRun.trans (h : FeedRun m c s outs t) (h' : FeedRun n d t outs' u) :
    FeedRun (m + n) (c ++ d) s (outs ++ outs') u where
  feeds fuel rest := by
    rw [Nat.add_comm m, ← Nat.add_assoc, List.append_assoc, h.feeds, h'.feeds]
  frame := by
    have hu : u = _ := h'.frame
    rw [show t = _ from h.frame] at hu
    exact hu
  preBuffer a ha := (h'.preBuffer a (h.params_eq ▸ ha)).trans (h.preBuffer a ha)
  reports := by rw [h'.reports, h.reports, List.append_assoc]

/-- The loop has spent `turns` turns on whole items of the stream: the framer is open idle, and `w` says whether the handler
may call back. -/
structure FeedDone (turns : Nat) (d : List Byte) (s : State) (outs : List Output) (w : Bool) (t : State) : Prop
    extends FeedRun turns d s outs t where
  idle : OpenIdle t
  turn : t.handlerWindow = w

theorem FeedRun.trans_done {w : Bool} (h : FeedRun m c s outs t) (h' : FeedDone n d t outs' w u) :
    FeedDone (m + n) (c ++ d) s (outs ++ outs') w u :=
  ⟨h.trans h'.toFeedRun, h'.idle, h'.turn⟩

end

/-! ### One turn -/

theorem reports_append (h o : List Output) : reports (h ++ o) = reports h ++ reports o := List.filter_append ..

theorem reports_readReq (pos n : Nat) : reports [.readReq pos n] = [] := rfl

theorem reports_singleton {o : Output} (h : o.isReadReq = false) : reports [o] = [o] := by
  simp only [reports, List.filter, h, Bool.not_false]

/-- A turn that answers next is a receive step: what it leaves unchanged and where it writes are that step's. -/
theorem feedRun_of_performRx {q : ReadRequest} {d : List Byte} {outs : List Output} {s t : State}
    (hr : s.rxReq = some q) (hlen : d.length = q.n) (h : performRx d s = .next t)
    (hrep : reports t.history = reports s.history ++ outs) : FeedRun 1 d s outs t := by
  have hexec := h
  rw [performRx_eq] at hexec
  obtain ⟨r⟩ := exec_receiveStep (isReceive_rxRow s.frameState d) hexec
  have hframe : t = _ := r.sameButFramer
  refine ⟨feedFuel_turn hr hlen h, ?_, fun a ha => r.read_outside ?_, hrep⟩
  · rw [hframe]
    rfl
  · simp only [State.phys]
    omega

section
variable {bs d : List Byte} {fs fs' : FrameState} {n : Nat} {o : Output} {s s2 : State}

/-- A turn in which the framer latches the size of the next block. -/
theorem feedRun_latch (hadm : s.params.admitted = true) (hz : s.params.zeroReadCompletes = true)
    (hs : Awaits bs fs d.length s) (hfit : bs.length + d.length ≤ 1 + s.params.mps)
    (hbody : ∀ s1, s1.params = s.params → s1.received = bs ++ d → rxBody fs s1 = .ok (expect n fs' s1)) :
    ∃ t, FeedRun 1 d s [] t ∧ Awaits (bs ++ d) fs' n t := by
  have hrec := hs.blockTaken_received
  have hstep := performRx_of_awaits hadm hz hs hfit (hbody _ rfl hrec)
  refine ⟨_, feedRun_of_performRx hs.request hs.bytesToRead.symm hstep ?_, hs.opened, rfl, rfl, rfl,
    (received_issueRead_expect ..).trans hrec⟩
  rw [issueRead_history, reports_append, reports_readReq]
  rfl

/-- A turn in which the framer reports an item and starts again. -/
theorem feedDone_report (hadm : s.params.admitted = true) (hz : s.params.zeroReadCompletes = true)
    (hs : Awaits bs fs d.length s) (hfit : bs.length + d.length ≤ 1 + s.params.mps)
    (hbody : rxBody fs (blockTaken d s) = .ok (resetFramer s2)) (ho : s2.opened = true)
    (hhist : s2.history = s.history ++ [o]) (hreq : o.isReadReq = false) :
    ∃ t, FeedDone 1 d s [o] s2.handlerWindow t := by
  have hstep := performRx_of_awaits hadm hz hs hfit hbody
  refine ⟨_, feedRun_of_performRx hs.request hs.bytesToRead.symm hstep ?_, openIdle_issueRead_resetFramer ho, rfl⟩
  rw [issueRead_history, resetFramer_history, hhist, reports_append, reports_append, reports_readReq,
    reports_singleton hreq, List.append_nil]

end

/-! ### The items of the stream -/

section
variable {s : State} (hadm : s.params.admitted = true) (hz : s.params.zeroReadCompletes = true) (hs : OpenIdle s)
include hadm hz hs

/-- A packet takes three turns: its tag, its header, its payload. -/
theorem feedDone_packet {tag : Byte} {hdr d : List Byte} {fs : FrameState} (hfit : (hdr ++ d).length ≤ s.params.mps)
    (htag : ∀ s1, s1.params = s.params → s1.logical 0 = tag → typeCase s1 = expect hdr.length fs s1)
    (hhdr : ∀ s1, s1.params = s.params → s1.received = tag :: hdr →
      rxBody fs s1 = .ok (expect d.length .awaitingPayload s1)) :
    ∃ t, FeedDone 3 (tag :: (hdr ++ d)) s [.dispatch s.handler tag (.inBuf (s.params.pb + 1) (hdr ++ d)) (hdr ++ d).length]
      s.handler.isRegistered t := by
  rw [List.length_append] at hfit
  obtain ⟨u, hu, hawait⟩ := feedRun_latch (d := [tag]) hadm hz hs.awaits (by simp)
    fun s1 hp hrec => congrArg Except.ok (htag s1 hp (logical_of_received hrec rfl))
  have hpu := hu.params_eq
  obtain ⟨v, hv, hawait⟩ := feedRun_latch (hpu ▸ hadm) (hpu ▸ hz) hawait (by simp [hpu]; omega)
    fun s1 hp hrec => hhdr s1 (hp.trans hpu) hrec
  have huv := hu.trans hv
  have hpv := huv.params_eq
  have hrec : (blockTaken d v).received = tag :: (hdr ++ d) := hawait.blockTaken_received
  obtain ⟨t, ht⟩ := feedDone_report (hpv ▸ hadm) (hpv ▸ hz) hawait (by simp [hpv]; omega)
    (payloadCase_of_received hrec (by rw [List.length_append]; exact hpv ▸ hfit)) hawait.opened rfl rfl
  have hphys : (blockTaken d v).phys 1 = s.params.pb + 1 := congrArg (fun p => p.pb + 1) hpv
  have hhandler : (blockTaken d v).handler = s.handler := huv.handler_eq
  exact ⟨t, by simpa [hphys, hhandler] using huv.trans_done ht⟩

/-- Each of the three headers declares its packet's payload (R82 to R85, R114 to R116). -/
theorem feedDone_wellFormed {k : Packet} (hk : k.wellFormed s.params = true) :
    ∃ t, FeedDone 3 (k.bytes s.params) s
      [.dispatch s.handler (k.tag s.params) (.inBuf (s.params.pb + 1) k.body) k.body.length] s.handler.isRegistered t := by
  obtain ⟨hmps, _, _⟩ := (Params.admitted_iff s.params).1 hadm
  cases k with
  | event code d =>
    have hlen : d.length ≤ 255 := of_decide_eq_true hk
    refine feedDone_packet (hdr := [code, lenLow d.length]) hadm hz hs (by simp; omega)
      (fun _ _ => typeCase_of_event) fun s1 _ hrec => ?_
    rw [rxBody, eventLen, logical_of_received hrec rfl, lenLow_toNat hlen]
  | acl h0 h1 d =>
    simp only [Packet.wellFormed, Bool.and_eq_true, decide_eq_true_eq] at hk
    obtain ⟨hlen, hfit⟩ := hk
    refine feedDone_packet (hdr := [h0, h1, lenLow d.length, lenHigh d.length]) hadm hz hs
      (by simp only [hdrAcl] at hfit; simp; omega) (fun _ _ => typeCase_of_acl) fun s1 hp hrec => ?_
    have hacl : aclLen s1 = d.length := (aclLen_of_received hrec).trans (le16_split hlen)
    rw [rxBody, aclCase_of_fits (by rw [hacl, hp]; exact hfit), hacl]
  | sco h0 h1 d =>
    have hlen : d.length ≤ 255 := of_decide_eq_true hk
    refine feedDone_packet (hdr := [h0, h1, lenLow d.length]) hadm hz hs (by simp; omega)
      (fun s1 hp h => typeCase_of_sco (hp ▸ hadm) (hp ▸ h)) fun s1 _ hrec => ?_
    rw [rxBody, scoLen, logical_of_received hrec rfl, lenLow_toNat hlen]

/-- A byte that is no tag takes one turn. -/
theorem feedDone_badTag {b : Byte} (hb : tagKind s.params b = .invalid) :
    ∃ t, FeedDone 1 [b] s [.log (.invalidTypeTag b)] false t := by
  have hawait : Awaits [] .awaitingType [b].length s := hs.awaits
  have hcase := typeCase_of_invalid (logical_of_received hawait.blockTaken_received rfl) hb
  exact feedDone_report hadm hz hawait (by simp) (congrArg Except.ok hcase) hawait.opened rfl rfl

/-- An ACL header that declares too much takes two turns: its tag and the header. -/
theorem feedDone_oversize {h0 h1 lo hi : Byte} (hover : s.params.mps < hdrAcl + le16 lo hi) :
    ∃ t, FeedDone 2 [tagAcl, h0, h1, lo, hi] s [.log (.aclLengthExceedsCapacity (le16 lo hi))] false t := by
  obtain ⟨hmps, _, _⟩ := (Params.admitted_iff s.params).1 hadm
  obtain ⟨u, hu, hawait⟩ := feedRun_latch (d := [tagAcl]) hadm hz hs.awaits (by simp)
    fun s1 _ hrec => congrArg Except.ok (typeCase_of_acl (logical_of_received hrec rfl))
  have hpu := hu.params_eq
  have hawait : Awaits [tagAcl] .awaitingAclHeader [h0, h1, lo, hi].length u := hawait
  have hlen := aclLen_of_received hawait.blockTaken_received
  have hcase := aclCase_of_exceeds (s := blockTaken [h0, h1, lo, hi] u) (by rw [hlen]; exact hpu ▸ hover)
  rw [hlen] at hcase
  obtain ⟨t, ht⟩ := feedDone_report (hpu ▸ hadm) (hpu ▸ hz) hawait (by simp [hpu]; omega)
    (congrArg Except.ok hcase) hawait.opened rfl rfl
  exact ⟨t, hu.trans_done ht⟩

/-- The loop takes each item of the stream whole, in at most two turns a byte. -/
theorem feedDone_item {x : StreamItem} (hx : x.valid s.params = true) :
    ∃ n t, n ≤ 2 * (x.bytes s.params).length ∧
      FeedDone n (x.bytes s.params) s [x.report s.params s.handler] (turnAfter s [x]) t := by
  cases x with
  | packet k =>
    obtain ⟨t, ht⟩ := feedDone_wellFormed hadm hz hs hx
    have hlen : 2 ≤ (StreamItem.bytes s.params (.packet k)).length := by
      cases k <;> simp [StreamItem.bytes, Packet.bytes, Packet.body]
    exact ⟨3, t, by omega, ht⟩
  | badTag b =>
    obtain ⟨t, ht⟩ := feedDone_badTag hadm hz hs (of_decide_eq_true hx)
    exact ⟨1, t, by simp [StreamItem.bytes], ht⟩
  | oversize h0 h1 lo hi =>
    obtain ⟨t, ht⟩ := feedDone_oversize hadm hz hs (of_decide_eq_true hx)
    exact ⟨2, t, by simp [StreamItem.bytes], ht⟩

end

/-! ### The whole stream -/

section
variable {s : State}

/-- After the first item the turn is left to the rest of the stream. -/
theorem turnAfter_cons {t : State} {x : StreamItem} {xs : List StreamItem} (hw : t.handlerWindow = turnAfter s [x])
    (hh : t.handler = s.handler) : turnAfter t xs = turnAfter s (x :: xs) := by
  cases xs with
  | nil => exact hw
  | cons y ys =>
    simp only [turnAfter, List.getLast?_cons, hh]
    cases ys.getLast?.getD y <;> rfl

/-- The loop takes the items of a stream one after another. -/
theorem feedDone_items {xs : List StreamItem} (hadm : s.params.admitted = true)
    (hz : s.params.zeroReadCompletes = true) (hs : OpenIdle s) (hxs : ∀ x ∈ xs, x.valid s.params = true) :
    ∃ n t, n ≤ 2 * (xs.flatMap (StreamItem.bytes s.params)).length ∧
      FeedDone n (xs.flatMap (StreamItem.bytes s.params)) s (xs.map (StreamItem.report s.params s.handler))
        (turnAfter s xs) t := by
  induction xs generalizing s with
  | nil => exact ⟨0, s, Nat.zero_le _, FeedRun.refl s, hs, rfl⟩
  | cons x xs ih =>
    obtain ⟨hx, hxs⟩ := List.forall_mem_cons.1 hxs
    obtain ⟨m, u, hm, hu⟩ := feedDone_item hadm hz hs hx
    have hp := hu.params_eq
    obtain ⟨n, t, hn, ht⟩ := ih (hp ▸ hadm) (hp ▸ hz) hu.idle (by rwa [hp])
    rw [hp, hu.handler_eq, turnAfter_cons hu.turn hu.handler_eq] at ht
    rw [hp] at hn
    refine ⟨m + n, t, ?_, hu.trans_done ht⟩
    rw [List.flatMap_cons, List.length_append]
    omega

/-- With its bytes used up and a turn left, the loop answers in open idle. -/
theorem feedFuel_nil_of_openIdle (hs : OpenIdle s) (fuel : Nat) : feedFuel (fuel + 1) [] s = .next s := by
  obtain ⟨_, _, _, _, hr⟩ := hs
  simp [feedFuel, hr]

theorem feed_of_done {n : Nat} {d : List Byte} {outs : List Output} {w : Bool} {t : State}
    (h : FeedDone n d s outs w t) (hn : n ≤ 2 * d.length) : feed d s = .next t := by
  have hfuel : 2 * d.length + 2 = (2 * d.length - n + 1 + 1) + n := by omega
  have hfeeds := h.feeds (2 * d.length - n + 1 + 1) []
  rw [List.append_nil, ← hfuel, feedFuel_nil_of_openIdle h.idle] at hfeeds
  exact hfeeds

/-- FEED of a stream of valid items answers next with the stream taken. -/
theorem feed_items {xs : List StreamItem} (hadm : s.params.admitted = true) (hz : s.params.zeroReadCompletes = true)
    (hs : OpenIdle s) (hxs : ∀ x ∈ xs, x.valid s.params = true) :
    ∃ n t, feed (xs.flatMap (StreamItem.bytes s.params)) s = .next t ∧
      FeedDone n (xs.flatMap (StreamItem.bytes s.params)) s (xs.map (StreamItem.report s.params s.handler))
        (turnAfter s xs) t := by
  obtain ⟨n, t, hn, ht⟩ := feedDone_items hadm hz hs hxs
  exact ⟨n, t, feed_of_done ht hn, ht⟩

end

end Sys2Proof.Machine
end

section
/-! PROOF. The statement about FEED and the handler's turn (30_encoding.md R95; 60_exceptions.md R208). -/

namespace Sys2Proof.Machine

/-- Settles O50: every turn of the loop is a receive step, which keeps the pending inputs, and each item of the stream sets the
handler's turn anew. -/
theorem feedLeavesTheTurnToTheLastItem : Obligations.FeedLeavesTheTurnToTheLastItem := by
  intro s xs hadm hidle hz hxs
  obtain ⟨n, t, hfeed, ht⟩ := feed_items hadm hz hidle hxs
  exact ⟨t, hfeed, ht.inputs_eq, ht.turn⟩

end Sys2Proof.Machine
end

section
/-! SUPPORT. What the proofs about RX_DONE (40_receive_framer.md R110 to R118) rest on: when its block is accepted and when
not, where the accepted block stands, and the whole state after each of the framer's three kinds of ending. -/

namespace Sys2Proof.Machine

/-! ### When a block is not accepted and when it is (40_receive_framer.md R112; log entry 9) -/

section
variable {fs : FrameState} {d : List Byte} {s : State} {q : ReadRequest}

theorem acceptBlock_of_no_request (ho : s.opened = true) (hr : s.rxReq = none) :
    acceptBlock fs d s = .error .noReadOutstanding := by
  simp [acceptBlock, ho, hr]

theorem acceptBlock_of_other_size (ho : s.opened = true) (hr : s.rxReq = some q) (hl : d.length ≠ q.n) :
    acceptBlock fs d s = .error .blockLengthMismatch := by
  simp [acceptBlock, ho, hr, hl]

theorem acceptBlock_of_parked_zeroRead (ho : s.opened = true) (hr : s.rxReq = some q) (hl : d.length = q.n) (hn : q.n = 0)
    (hz : s.params.zeroReadCompletes = false) : acceptBlock fs d s = .error .zeroReadNeverCompletes := by
  simp [acceptBlock, ho, hr, hl, hn, hz]

/-- Also for a read of zero bytes, where the driver completes it. -/
theorem acceptBlock_of_completed_in_other_frameState (ho : s.opened = true) (hr : s.rxReq = some q) (hl : d.length = q.n)
    (hz : q.n = 0 → s.params.zeroReadCompletes = true) (hf : s.frameState ≠ fs) :
    acceptBlock fs d s = .error .frameStateMismatch := by
  by_cases hn : q.n = 0
  · simp [acceptBlock, ho, hr, hl, hz hn, hf]
  · exact acceptBlock_of_other_frameState ho hr hl hn hf

/-- RX_DONE of the block asked for, in its frame state, runs the framer's case and issues the next read. -/
theorem exec_rxRow_of {s2 : State} (hadm : s.params.admitted = true) (ho : s.opened = true) (hf : s.frameState = fs)
    (hr : s.rxReq = some q) (hl : d.length = q.n) (hz : q.n = 0 → s.params.zeroReadCompletes = true)
    (hfit : q.pos + q.n ≤ 1 + s.params.mps) (hbody : rxBody fs (accepted q d s) = .ok s2) :
    exec (rxRow fs d) s = .next (issueRead s2) := by
  rw [exec_rxRow]
  exact rxDone_of hadm (acceptBlock_of ho hr hl hz hf (phys_range hfit)) hbody

/-- A tag or a header, which is never empty and ends within the first five bytes, fits every admitted buffer. -/
theorem exec_rxRow_of_header {s2 : State} (hadm : s.params.admitted = true) (ho : s.opened = true) (hf : s.frameState = fs)
    (hr : s.rxReq = some q) (hl : d.length = q.n) (hn : q.n ≠ 0) (hend : q.pos + q.n ≤ 5)
    (hbody : rxBody fs (accepted q d s) = .ok s2) : exec (rxRow fs d) s = .next (issueRead s2) := by
  obtain ⟨hmps, _, _⟩ := (Params.admitted_iff s.params).1 hadm
  exact exec_rxRow_of hadm ho hf hr hl (fun h0 => absurd h0 hn) (by omega) hbody

end

/-! ### The accepted block in the buffer -/

/-- A fill, one byte at a time from its front. -/
theorem Memory.read_fill_cons (m : Memory) (a : Nat) (v : Byte) (d : List Byte) (x : Nat) :
    Memory.read (Memory.fill m a (v :: d)) x = if x = a then some v else Memory.read (Memory.fill m (a + 1) d) x := by
  by_cases hx : x = a
  · simp [Memory.read_fill, hx]
  · rw [Memory.fill, Memory.read_fill, Memory.read_fill, Memory.read_set, if_neg hx, if_neg hx]

theorem accepted_logical_block {q : ReadRequest} {d : List Byte} {i : Nat} {b : Byte} (s : State) (hb : d[i]? = some b) :
    (accepted q d s).logical (q.pos + i) = b := by
  have hi : i < d.length := (List.getElem?_eq_some_iff.1 hb).1
  have hin : s.phys q.pos ≤ s.phys (q.pos + i) ∧ s.phys (q.pos + i) < s.phys q.pos + d.length := by
    simp only [State.phys]
    omega
  have hoff : s.phys (q.pos + i) - s.phys q.pos = i := by
    simp only [State.phys]
    omega
  rw [State.logical, State.byteAt, accepted_buf, accepted_phys, Memory.read_fill, if_pos hin, hoff, hb]
  rfl

theorem accepted_aclLen (h0 h1 lo hi : Byte) (s : State) :
    aclLen (accepted ⟨1, 4⟩ [h0, h1, lo, hi] s) = lo.toNat + 256 * hi.toNat :=
  congrArg₂ le16 (accepted_logical_block (i := 2) s rfl) (accepted_logical_block (i := 3) s rfl)

/-- The block of the outstanding read continues the bytes of the current packet. -/
theorem accepted_received {d : List Byte} {s : State} (ho : s.opened = true)
    (hr : s.rxReq = some ⟨s.readPos, s.bytesToRead⟩) (hl : d.length = s.bytesToRead) :
    (accepted ⟨s.readPos, s.bytesToRead⟩ d s).received = s.received ++ d := by
  have hawait : Awaits s.received s.frameState d.length s := ⟨ho, rfl, hl.symm, hr, rfl⟩
  have hturn : (accepted ⟨s.readPos, s.bytesToRead⟩ d s).received = (blockTaken d s).received :=
    bytesAt_congr _ _ fun _ _ _ => rfl
  exact hturn.trans hawait.blockTaken_received

/-- The bytes of a packet that has begun are its tag and what follows it. -/
theorem received_eq_cons {s : State} (hpos : 1 ≤ s.readPos) :
    s.received = s.byteAt s.params.pb :: s.bytesAt (s.params.pb + 1) (s.readPos - 1) := by
  obtain ⟨n, hn⟩ := Nat.exists_eq_add_of_le' hpos
  rw [State.received, hn]
  rfl

/-! ### The state after a step, by the ending of the framer's case -/

theorem FrameCase.buf_eq {fs : FrameState} {s1 s2 : State} (h : FrameCase fs s1 s2) : s2.buf = s1.buf := by
  rw [show s2 = _ from h.sameButFramer]

section
variable (q : ReadRequest) (d : List Byte) (s : State)

/-- A size was latched: the cursor is past the block and the next block is requested there. -/
theorem latched_eq {pos : Nat} (n : Nat) (fs : FrameState) (hpos : s.readPos + s.bytesToRead = pos) :
    issueRead (expect n fs (accepted q d s)) =
      { s with buf := (accepted q d s).buf, frameState := fs, readPos := pos, bytesToRead := n,
               rxReq := some ⟨pos, n⟩, history := s.history ++ [.readReq pos n] } := by
  subst hpos
  rfl

/-- A cause was raised: it is logged and the framer starts again. -/
theorem raised_eq (c : Cause) :
    issueRead (raiseCause c (accepted q d s)) =
      { s with buf := (accepted q d s).buf, frameState := .awaitingType, readPos := 0, bytesToRead := 1,
               rxReq := some ⟨0, 1⟩, history := s.history ++ [.log c, .readReq 0 1] } := by
  simp [issueRead, raiseCause, resetFramer, emit, accepted]

/-- A packet was dispatched: the handler may call back and the framer starts again. -/
theorem dispatched_eq (ty : Byte) (r : DataRef) (n : Nat) :
    issueRead (resetFramer (dispatch ty r n (accepted q d s))) =
      { s with buf := (accepted q d s).buf, frameState := .awaitingType, readPos := 0, bytesToRead := 1,
               rxReq := some ⟨0, 1⟩, handlerWindow := s.handler.isRegistered,
               history := s.history ++ [.dispatch s.handler ty r n, .readReq 0 1] } := by
  simp [issueRead, resetFramer, dispatch, emit, accepted]

theorem emitted_dispatched (ty : Byte) (r : DataRef) (n : Nat) :
    emitted s (issueRead (resetFramer (dispatch ty r n (accepted q d s)))) =
      [.dispatch s.handler ty r n, .readReq 0 1] := by
  rw [dispatched_eq, emitted, List.drop_left]

end

/-- What an RX_DONE.PAYLOAD that answers next met and did. -/
theorem execRxDonePayload_next {d : List Byte} {s t : State} (h : execRxDonePayload d s = .next t) :
    ∃ q s1, s.opened = true ∧ s.frameState = .awaitingPayload ∧ s.rxReq = some q ∧ s1 = accepted q d s ∧
      t = issueRead (resetFramer (dispatch (s1.logical 0)
        (.inBuf (s1.phys 1) (s1.bytesAt (s1.phys 1) (s1.readPos - 1))) (s1.readPos - 1) s1)) := by
  obtain ⟨s1, s2, _, haccept, hcase, rfl⟩ := rxDone_next h
  obtain ⟨q, ho, hr, _, _, hf, _, hs1⟩ := acceptBlock_ok haccept
  obtain ⟨_, rfl⟩ := payloadCase_ok hcase
  exact ⟨q, s1, ho, hf, hr, hs1, rfl⟩

/-! ### The outputs of a receive step -/

theorem Output.isReadReq_iff {o : Output} : o.isReadReq = true ↔ ∃ pos n, o = .readReq pos n := by
  cases o <;> simp [Output.isReadReq]

/-- The outputs of a receive step are those of its framer's case, which requests no read, and then the one read request. -/
theorem ReceiveStep.emitted_eq {s t : State} (r : ReceiveStep s t) :
    ∃ outs, emitted s t = outs ++ [.readReq t.readPos t.bytesToRead] ∧ ∀ pos n, .readReq pos n ∉ outs := by
  obtain ⟨outs, hist, hno⟩ := r.frameCase.appends
  refine ⟨outs, ?_, hno⟩
  rw [emitted, r.result, issueRead_history, hist, accepted_history, List.append_assoc, List.drop_left]
  rfl

end Sys2Proof.Machine
end

section
/-! PROOF. The statements about RX_DONE, step by step (40_receive_framer.md R111 to R118, R121). -/

namespace Sys2Proof.Machine

/-- Settles O14: the byte lands in `L[0]`, and the case of R113 is decided by the byte there. -/
theorem typeByteSelectsTheHeader : Obligations.TypeByteSelectsTheHeader := by
  intro s b hadm ⟨ho, hf, hpos, hlen, hr⟩
  have htag := accepted_tag b s
  have hend : s.readPos + s.bytesToRead = 1 := by rw [hpos, hlen]
  refine ⟨issueRead (typeCase (accepted ⟨0, 1⟩ [b] s)),
    exec_rxRow_of_header (fs := .awaitingType) hadm ho hf hr rfl Nat.one_ne_zero (by decide) rfl,
    fun a => ?_, fun hb => ?_, fun hb => ?_, fun hb => ?_, fun hevent hacl hsco => ?_⟩
  · rw [issueRead_buf, (typeCase_frameCase _).buf_eq]
    exact accepted_tag_read b s a
  · rw [typeCase_of_event (htag.trans hb)]
    exact latched_eq _ _ s _ _ hend
  · rw [typeCase_of_acl (htag.trans hb)]
    exact latched_eq _ _ s _ _ hend
  · rw [typeCase_of_sco (s := accepted ⟨0, 1⟩ [b] s) hadm (htag.trans hb)]
    exact latched_eq _ _ s _ _ hend
  · rw [typeCase_of_invalid htag (tagKind_invalid.2 ⟨hevent, hacl, hsco⟩)]
    exact raised_eq _ _ s _

/-- Settles O15: the length byte is the second of the block at `L[1]`. -/
theorem eventHeaderLatchesItsLength : Obligations.EventHeaderLatchesItsLength := by
  intro s code len hadm ho hf hpos hlen hr
  have hlatch : eventLen (accepted ⟨1, 2⟩ [code, len] s) = len.toNat :=
    congrArg BitVec.toNat (accepted_logical_block (i := 1) s rfl)
  refine ⟨issueRead (expect len.toNat .awaitingPayload (accepted ⟨1, 2⟩ [code, len] s)),
    exec_rxRow_of_header (fs := .awaitingEventHeader) hadm ho hf hr rfl two_ne_zero (by decide) (by rw [rxBody, hlatch]),
    latched_eq _ _ s _ _ (by rw [hpos, hlen]), fun a => ?_⟩
  rw [issueRead_buf, expect_buf, accepted_buf]
  simp only [Memory.read_fill_cons]
  rfl

/-- Settles O16: the length is the third and fourth byte of the block at `L[1]`, and the one bounds check decides. -/
theorem aclHeaderIsBoundsChecked : Obligations.AclHeaderIsBoundsChecked := by
  intro s h0 h1 lo hi hadm ho hf hpos hlen hr
  have hlatch := accepted_aclLen h0 h1 lo hi s
  refine ⟨issueRead (aclCase (accepted ⟨1, 4⟩ [h0, h1, lo, hi] s)),
    exec_rxRow_of_header (fs := .awaitingAclHeader) hadm ho hf hr rfl four_ne_zero (by decide) rfl,
    fun hfit => ?_, fun hover => ?_, fun a => ?_⟩
  · rw [aclCase_of_fits (by rw [hlatch]; exact hfit), hlatch]
    exact latched_eq _ _ s _ _ (by rw [hpos, hlen])
  · rw [aclCase_of_exceeds (by rw [hlatch]; exact hover), hlatch]
    exact raised_eq _ _ s _
  · rw [issueRead_buf, (aclCase_frameCase _).buf_eq, accepted_buf]
    simp only [Memory.read_fill_cons]
    rfl

/-- Settles O17: the length byte is the third of the block at `L[1]`. -/
theorem scoHeaderLatchesItsLength : Obligations.ScoHeaderLatchesItsLength := by
  intro s h0 h1 len hadm ho hf hpos hlen hr
  have hlatch : scoLen (accepted ⟨1, 3⟩ [h0, h1, len] s) = len.toNat :=
    congrArg BitVec.toNat (accepted_logical_block (i := 2) s rfl)
  refine ⟨issueRead (expect len.toNat .awaitingPayload (accepted ⟨1, 3⟩ [h0, h1, len] s)),
    exec_rxRow_of_header (fs := .awaitingScoHeader) hadm ho hf hr rfl three_ne_zero (by decide) (by rw [rxBody, hlatch]),
    latched_eq _ _ s _ _ (by rw [hpos, hlen]), fun a => ?_⟩
  rw [issueRead_buf, expect_buf, accepted_buf]
  simp only [Memory.read_fill_cons]
  rfl

/-- Settles O18: the packet's bytes are those received before and the block, and its first is the tag. -/
theorem payloadIsDispatchedWhole : Obligations.PayloadIsDispatchedWhole := by
  intro s d hadm ho hf hr hl hz hpos hfit
  have hrec := accepted_received ho hr hl
  rw [received_eq_cons hpos, List.cons_append] at hrec
  have hlen : (s.bytesAt (s.params.pb + 1) (s.readPos - 1) ++ d).length = s.readPos - 1 + s.bytesToRead := by
    rw [List.length_append, bytesAt_length, hl]
  have hcase := payloadCase_of_received hrec (by rw [hlen, accepted_params]; omega)
  rw [hlen] at hcase
  exact ⟨_, exec_rxRow_of (fs := .awaitingPayload) hadm ho hf hr hl hz hfit hcase, dispatched_eq _ d s _ _ _,
    Memory.read_fill d s.buf _⟩

/-- Settles O20: the framer's case requests no read, and ISSUE_READ ends every receive step. -/
theorem everyReceiveStepIssuesOneRead : Obligations.EveryReceiveStepIssuesOneRead := by
  intro i s t hi h
  obtain ⟨r⟩ := exec_receiveStep hi h
  obtain ⟨outs, hemit, hno⟩ := r.emitted_eq
  have hcase : outs.filter Output.isReadReq = [] := List.filter_eq_nil_iff.2 fun o ho hread => by
    obtain ⟨pos, n, rfl⟩ := Output.isReadReq_iff.1 hread
    exact hno pos n ho
  refine ⟨?_, ?_, ?_⟩
  · rw [r.result]
    rfl
  · rw [hemit, List.filter_append, hcase]
    rfl
  · rw [hemit, List.getLast?_concat]

/-- Settles O43: the cursor row fixes the header size, and the header agreement the type and the size of the last block. -/
theorem dispatchedLengthIsDeclared : Obligations.DispatchedLengthIsDeclared := by
  intro s t d hinv hagree h
  obtain ⟨q, s1, ho, hf, hr, rfl, rfl⟩ := execRxDonePayload_next h
  obtain rfl : (⟨s.readPos, s.bytesToRead⟩ : ReadRequest) = q := Option.some.inj ((hinv.oneRead ho).symm.trans hr)
  have hrow := hinv.cursorRow ho
  have hagree := hagree ho
  simp only [CursorRow, hf] at hrow hagree
  obtain ⟨hevent, hacl, hsco⟩ := hagree
  refine ⟨_, _, _, emitted_dispatched .., bytesAt_length .., ?_⟩
  rw [accepted_readPos, accepted_logical_below _ d (by simp only; omega)]
  obtain ⟨hpos, _⟩ | ⟨hpos, _, _⟩ | ⟨hpos, _⟩ := hrow
  · obtain ⟨hty, hlen⟩ := hevent hpos
    exact .inl ⟨hty, by omega⟩
  · obtain ⟨hty, hlen⟩ := hacl hpos
    exact .inr (.inl ⟨hty, by omega⟩)
  · obtain ⟨hty, hlen⟩ := hsco hpos
    exact .inr (.inr ⟨hty, by omega⟩)

/-- Settles O19: RX_DONE accepts its block first, and each clause is a reason it does not. -/
theorem blockReceivedNeedsItsRequest : Obligations.BlockReceivedNeedsItsRequest := by
  intro s fs d hadm
  rw [exec_rxRow]
  exact ⟨fun ho => rxDone_of_error hadm (acceptBlock_of_closed ho),
    fun ho hr => rxDone_of_error hadm (acceptBlock_of_no_request ho hr),
    fun _ ho hr hl => rxDone_of_error hadm (acceptBlock_of_other_size ho hr hl),
    fun _ ho hr hl hn hz => rxDone_of_error hadm (acceptBlock_of_parked_zeroRead ho hr hl hn hz),
    fun _ ho hr hl hz hf => rxDone_of_error hadm (acceptBlock_of_completed_in_other_frameState ho hr hl hz hf)⟩

end Sys2Proof.Machine
end

section
/-! PROOF. The statements about the framer over whole streams (40_receive_framer.md R120 to R123). -/

namespace Sys2Proof.Machine

/-- Settles O44: back-to-back packets are a stream of which every item is a packet. -/
theorem framingCompleteness : Obligations.FramingCompleteness := by
  intro s ks hadm hidle hz hks
  obtain ⟨_, t, hfeed, ht⟩ := feed_items (xs := ks.map .packet) hadm hz hidle (List.forall_mem_map.2 hks)
  rw [List.flatMap_map] at hfeed
  refine ⟨t, hfeed, ht.idle, ?_⟩
  rw [ht.reports, List.map_map]
  rfl

/-- Settles O45: a corrupt tag and a packet are a stream of two items. -/
theorem resyncAfterACorruptTag : Obligations.ResyncAfterACorruptTag := by
  intro s b k hadm hidle hz hevent hacl hsco hk
  have hbad : tagKind s.params b = .invalid := tagKind_invalid.2 ⟨hevent, hacl, hsco⟩
  obtain ⟨_, t, hfeed, ht⟩ := feed_items (xs := [.badTag b, .packet k]) hadm hz hidle
    (by simpa [StreamItem.valid, hbad] using hk)
  have hbytes : [.badTag b, .packet k].flatMap (StreamItem.bytes s.params) = b :: k.bytes s.params :=
    congrArg (b :: ·) (List.append_nil _)
  rw [hbytes] at hfeed
  exact ⟨t, hfeed, ht.idle, ht.reports⟩

/-- Settles O46: the loop takes the items one after another, each turn a receive step, which leaves the transmit side, the
handler and the pre-buffer as they were. -/
theorem streamItemsAreReportedInOrder : Obligations.StreamItemsAreReportedInOrder := by
  intro s xs hadm hidle hz hxs
  obtain ⟨_, t, hfeed, ht⟩ := feed_items hadm hz hidle hxs
  have hframe : t = _ := ht.frame
  have hgate : t.writeGate = s.writeGate := by rw [hframe]
  have hreq : t.txReq = s.txReq := by rw [hframe]
  exact ⟨t, hfeed, ht.idle, ht.reports, hgate, hreq, ht.handler_eq, ht.params_eq, ht.preBuffer⟩

end Sys2Proof.Machine
end

section
/-! SUPPORT. What the proofs about the Send Gate (41_send_gate.md R140 to R143) rest on: what SEND_PACKET and TX_DONE answer in
each case, what SEND_PACKET leaves in the state, and what each kind of instruction does to the gate. -/

namespace Sys2Proof.Machine

/-! ### SEND_PACKET, one lemma per answer (R141) -/

section
variable {s : State} {ty : Byte} {p n : Nat}

theorem execSendPacket_of_transmitting (ha : s.params.admitted = true) (hgate : s.writeGate = true) :
    execSendPacket ty p n s = .refused .sendWhileTransmitting := by
  rw [execSendPacket, ifAdmitted_of ha, if_pos hgate]

theorem execSendPacket_of_closed (ha : s.params.admitted = true) (hgate : s.writeGate = false) (ho : s.opened = false) :
    execSendPacket ty p n s = .refused .sendWhileClosed := by
  rw [execSendPacket, ifAdmitted_of ha, if_neg (ne_true_of_eq_false hgate), if_pos ho]

theorem execSendPacket_of_slot_outside (ha : s.params.admitted = true) (hgate : s.writeGate = false)
    (ho : s.opened = true) (hslot : ¬ (1 ≤ p ∧ p ≤ s.params.pb)) :
    execSendPacket ty p n s = .refused .sendTagSlotOutsidePreBuffer := by
  rw [execSendPacket, ifAdmitted_of ha, if_neg (ne_true_of_eq_false hgate), if_neg (ne_false_of_eq_true ho), if_pos hslot]

theorem execSendPacket_of_payload_outside (ha : s.params.admitted = true) (hgate : s.writeGate = false)
    (ho : s.opened = true) (hslot : 1 ≤ p ∧ p ≤ s.params.pb) (hfit : ¬ (n ≤ s.params.mps ∧ p + n ≤ s.params.cap)) :
    execSendPacket ty p n s = .refused .sendPayloadOutsideBuffer := by
  rw [execSendPacket, ifAdmitted_of ha, if_neg (ne_true_of_eq_false hgate), if_neg (ne_false_of_eq_true ho),
    if_neg (not_not.2 hslot), if_pos hfit]

/-- Under P1 to P4 the answer is P5's. -/
theorem execSendPacket_of_ready (ha : s.params.admitted = true) (hgate : s.writeGate = false) (ho : s.opened = true)
    (hslot : 1 ≤ p ∧ p ≤ s.params.pb) (hfit : n ≤ s.params.mps ∧ p + n ≤ s.params.cap) :
    execSendPacket ty p n s =
      if (sendWindow p n).meets (rxWindow s) then .refused .sendOverlapsReceive else .next (startTransmit ty p n s) := by
  rw [execSendPacket, ifAdmitted_of ha, if_neg (ne_true_of_eq_false hgate), if_neg (ne_false_of_eq_true ho),
    if_neg (not_not.2 hslot), if_neg (not_not.2 hfit)]

/-! ### The send window against the RX window (R60, R141 P5) -/

/-- A non-empty RX window begins at `PB`, so a send window that begins below and ends above that offset shares it. -/
theorem sendWindow_meets_rxWindow (ho : s.opened = true) (hp : p ≤ s.params.pb) (hend : s.params.pb < p + n)
    (hrx : 1 ≤ s.readPos + s.bytesToRead) : (sendWindow p n).meets (rxWindow s) = true := by
  refine (Window.meets_iff _ _).2 ⟨s.params.pb, ?_⟩
  simp only [sendWindow, rxWindow, ho, if_true]
  omega

/-- The RX window of an open transport lies above the pre-buffer. -/
theorem sendWindow_not_meets_rxWindow (ho : s.opened = true) (hend : p + n ≤ s.params.pb) :
    ¬ (sendWindow p n).meets (rxWindow s) = true := by
  rw [Window.meets_iff]
  rintro ⟨x, hx⟩
  simp only [sendWindow, rxWindow, ho, if_true] at hx
  omega

/-! ### The effect of SEND_PACKET (R141) -/

/-- With the tag in the byte before the payload, the bytes from the slot on are the tag and the payload. -/
theorem bytesAt_memWrite_slot (s : State) (ty : Byte) (n : Nat) (hp : 1 ≤ p) :
    (memWrite (p - 1) ty s).bytesAt (p - 1) (n + 1) = ty :: s.bytesAt p n := by
  have htag : (memWrite (p - 1) ty s).byteAt (p - 1) = ty := by
    simp [State.byteAt, Memory.read_set]
  have hpayload : (memWrite (p - 1) ty s).bytesAt p n = s.bytesAt p n := by
    refine bytesAt_congr p n fun x hx _ => ?_
    rw [memWrite_buf, Memory.read_set, if_neg (by omega)]
  rw [State.bytesAt, htag, Nat.sub_add_cancel hp, hpayload]

/-- The elements SEND_PACKET writes, and that it writes no other. -/
theorem startTransmit_eq (s : State) (ty : Byte) (n : Nat) (hp : 1 ≤ p) :
    startTransmit ty p n s =
      { s with buf := Memory.set s.buf (p - 1) ty, writeGate := true,
               txReq := some ⟨p - 1, n + 1, ty :: s.bytesAt p n⟩,
               history := s.history ++ [.writeReq (p - 1) (n + 1), .returnInt 0] } := by
  have hbytes : (setGate (memWrite (p - 1) ty s)).bytesAt (p - 1) (n + 1) =
      (memWrite (p - 1) ty s).bytesAt (p - 1) (n + 1) := bytesAt_congr _ _ fun _ _ _ => rfl
  rw [← startTransmit_history s ty, ← bytesAt_memWrite_slot s ty n hp, ← hbytes]
  rfl

end

/-! ### TX_DONE, one lemma per answer (R142, R186, R187) -/

section
variable {s : State}

theorem execTxDone_of_closed (ha : s.params.admitted = true) (ho : s.opened = false) :
    execTxDone s = .fault .driverEventWhileClosed := by
  rw [execTxDone, ifAdmitted_of ha, if_pos ho]

theorem execTxDone_of_no_write (ha : s.params.admitted = true) (ho : s.opened = true) (hq : s.txReq = none) :
    execTxDone s = .fault .noWriteOutstanding := by
  rw [execTxDone, ifAdmitted_of ha, if_neg (ne_false_of_eq_true ho), if_pos hq]

theorem execTxDone_of_write (ha : s.params.admitted = true) (ho : s.opened = true) (hq : s.txReq ≠ none) :
    execTxDone s =
      .next (dispatch tagEvent (.const [s.params.sentCode, 0x00]) 2 { clearGate s with txReq := none }) := by
  rw [execTxDone, ifAdmitted_of ha, if_neg (ne_false_of_eq_true ho), if_neg hq]

end

/-! ### What each kind of instruction does to the gate (R143) -/

/-- The instructions that clear the gate: TX_DONE, CLOSE, a successful OPEN (R142, R161, R162). -/
def ClearsGate (i : Instr) : Prop := i = .txDone ∨ (∃ rc, i = .closeOp rc) ∨ i = .openOp 0

section
variable {i : Instr} {s t : State}

theorem sendPacket_gate {ty : Byte} {p n : Nat} (h : exec (.sendPacket ty p n) s = .next t) :
    s.writeGate = false ∧ t.writeGate = true := by
  obtain ⟨_, hgate, _, _, _, _, _, _, rfl⟩ := execSendPacket_next h
  exact ⟨hgate, rfl⟩

theorem ClearsGate.gate_clear (hi : ClearsGate i) (h : exec i s = .next t) : t.writeGate = false := by
  obtain rfl | ⟨rc, rfl⟩ | rfl := hi
  · obtain ⟨_, _, _, rfl⟩ := execTxDone_next h
    rfl
  · obtain ⟨_, _, rfl⟩ := execClose_next h
    rfl
  · obtain ⟨_, _, _, ⟨hrc, _⟩ | ⟨_, rfl⟩⟩ := execOpen_next h
    · exact absurd rfl hrc
    · rfl

theorem ReceiveStep.gate_eq (r : ReceiveStep s t) : t.writeGate = s.writeGate :=
  (congrArg State.writeGate r.sameButFramer :)

/-- Every instruction but SEND_PACKET and those that clear the gate keeps it. -/
theorem exec_keeps_gate (hsend : ∀ ty p n, i ≠ .sendPacket ty p n) (hclear : ¬ ClearsGate i) (h : exec i s = .next t) :
    t.writeGate = s.writeGate := by
  by_cases hi : isReceive i = true
  · obtain ⟨r⟩ := exec_receiveStep hi h
    exact r.gate_eq
  cases i <;> simp only [isReceive, not_true_eq_false] at hi
  case initOp cfg => obtain ⟨_, _, ⟨_, _, rfl⟩ | ⟨_, rfl⟩⟩ := execInit_next h <;> rfl
  case openOp rc =>
    obtain ⟨_, _, _, ⟨_, rfl⟩ | ⟨rfl, _⟩⟩ := execOpen_next h
    · rfl
    · exact absurd (.inr (.inr rfl)) hclear
  case closeOp rc => exact absurd (.inr (.inl ⟨rc, rfl⟩)) hclear
  case registerHandler k => obtain ⟨_, _, rfl⟩ := execRegisterHandler_next h; rfl
  case canSendNow ty => obtain ⟨_, rfl⟩ := execCanSendNow_next (ty := ty) h; rfl
  case sendPacket ty p n => exact absurd rfl (hsend ty p n)
  case setBaudrate r rc => obtain ⟨_, _, rfl⟩ := execSetBaudrate_next h; rfl
  case txDone => exact absurd (.inl rfl) hclear

/-- The gate changes only by a send or by an instruction that clears it. -/
theorem sendPacket_or_clearsGate (h : exec i s = .next t) (hne : t.writeGate ≠ s.writeGate) :
    (∃ ty p n, i = .sendPacket ty p n) ∨ ClearsGate i := by
  by_contra hneither
  obtain ⟨hsend, hclear⟩ := not_or.1 hneither
  exact hne (exec_keeps_gate (fun ty p n hi => hsend ⟨ty, p, n, hi⟩) hclear h)

end

end Sys2Proof.Machine
end

section
/-! PROOF. The statements about the Send Gate (41_send_gate.md R140 to R143). -/

namespace Sys2Proof.Machine

/-- Settles O23: each failed precondition has its lemma's answer; a payload that ends in the pre-buffer keeps the two windows
apart, one that ends above it makes them share the offset `PB`. -/
theorem sendPacketPrependsTheTag : Obligations.SendPacketPrependsTheTag := by
  intro s ty p n hadm
  refine ⟨fun hgate ho hp hpb hmps hcap hend => ⟨startTransmit ty p n s, ?_, startTransmit_eq s ty n hp, ?_⟩,
    execSendPacket_of_transmitting hadm, execSendPacket_of_closed hadm, execSendPacket_of_slot_outside hadm,
    execSendPacket_of_payload_outside hadm, fun hgate ho hslot hfit hrx hend => ?_⟩
  · exact (execSendPacket_of_ready hadm hgate ho ⟨hp, hpb⟩ ⟨hmps, hcap⟩).trans
      (if_neg (sendWindow_not_meets_rxWindow ho hend))
  · exact Memory.read_set s.buf (p - 1) ty
  · exact (execSendPacket_of_ready hadm hgate ho hslot hfit).trans
      (if_pos (sendWindow_meets_rxWindow ho hslot.2 hend hrx))

/-- Settles O26: a send sets the gate it found clear, three instructions clear it, and no other changes it. -/
theorem sendGateExclusivity : Obligations.SendGateExclusivity := by
  intro i s t h
  refine ⟨?_, fun hs ht => ?_, fun hs ht => ?_, fun hi => ClearsGate.gate_clear hi h⟩
  · rintro ty p n rfl
    exact sendPacket_gate h
  · refine (sendPacket_or_clearsGate h (by simp [hs, ht])).resolve_right fun hi => ?_
    simp [hi.gate_clear h] at ht
  · refine (sendPacket_or_clearsGate h (by simp [hs, ht])).resolve_left ?_
    rintro ⟨ty, p, n, rfl⟩
    obtain ⟨hclear, _⟩ := sendPacket_gate h
    simp [hs] at hclear

/-- Settles O22: the meaning has no precondition beyond the configuration test. -/
theorem canSendNowAnswersTheGate : Obligations.CanSendNowAnswersTheGate :=
  fun _ _ hadm => ifAdmitted_of hadm _

/-- Settles O24: with its write outstanding TX_DONE is the clearing of gate and request, then the dispatch. -/
theorem transmitDoneDeliversTheSentEvent : Obligations.TransmitDoneDeliversTheSentEvent :=
  fun _ q hadm ho hq => execTxDone_of_write hadm ho (hq ▸ Option.some_ne_none q)

/-- Settles O25, one lemma per missing premise. -/
theorem transmitDoneNeedsItsRequest : Obligations.TransmitDoneNeedsItsRequest :=
  fun _ hadm => ⟨execTxDone_of_closed hadm, execTxDone_of_no_write hadm⟩

end Sys2Proof.Machine
end

section
/-! SUPPORT. What the proofs about the Transport Facade (42_transport_facade.md R160 to R165) rest on: what each of its
operations answers in each case, the lifecycle phase by the two flags it is read from, and what an instruction answers in a
phase outside its own. -/

namespace Sys2Proof.Machine

/-! ### The facade's operations, one lemma per answer (R160 to R162, R164) -/

/-- Two outputs in a row. -/
theorem emit_emit (o o' : Output) (s : State) : emit o' (emit o s) = { s with history := s.history ++ [o, o'] } := by
  simp [emit]

section
variable {s : State} {rc : Int}

theorem execInit_of_open {cfg : InitConfig} (ha : s.params.admitted = true) (ho : s.opened = true) :
    execInit cfg s = .refused .initWhileOpen := by
  rw [execInit.eq_def, ifAdmitted_of ha, if_pos ho]

theorem execInit_of_uart {c : DriverConfig} (ha : s.params.admitted = true) (ho : s.opened = false) :
    execInit (.uart c) s = .next (emit (.drvConfigure c) { s with drvCfg := c, configured := true }) := by
  rw [execInit, ifAdmitted_of ha, if_neg (ne_true_of_eq_false ho)]

/-- A missing configuration and one of the wrong kind are answered alike. -/
theorem execInit_of_not_uart {cfg : InitConfig} (ha : s.params.admitted = true) (ho : s.opened = false)
    (hcfg : ∀ c, cfg ≠ .uart c) : execInit cfg s = .next (emit (.log .configError) s) := by
  rw [execInit.eq_def, ifAdmitted_of ha, if_neg (ne_true_of_eq_false ho)]
  cases cfg with
  | missing => rfl
  | wrongKind => rfl
  | uart c => exact absurd rfl (hcfg c)

theorem execOpen_of_open (ha : s.params.admitted = true) (ho : s.opened = true) :
    execOpen rc s = .refused .openWhileOpen := by
  rw [execOpen, ifAdmitted_of ha, if_pos ho]

theorem execOpen_of_unconfigured (ha : s.params.admitted = true) (ho : s.opened = false) (hc : s.configured = false) :
    execOpen rc s = .refused .openUnconfigured := by
  rw [execOpen, ifAdmitted_of ha, if_neg (ne_true_of_eq_false ho), if_pos hc]

theorem execOpen_of_failure (ha : s.params.admitted = true) (hc : s.configured = true) (ho : s.opened = false)
    (hrc : rc ≠ 0) : execOpen rc s = .next { s with history := s.history ++ [.drvOpen, .returnInt rc] } := by
  rw [execOpen, ifAdmitted_of ha, if_neg (ne_true_of_eq_false ho), if_neg (ne_false_of_eq_true hc), if_pos hrc, emit_emit]

/-- The elements a successful OPEN writes, and that it writes no other. -/
theorem execOpen_of_success (ha : s.params.admitted = true) (hc : s.configured = true) (ho : s.opened = false) :
    execOpen 0 s = .next
      { s with opened := true, writeGate := false, frameState := .awaitingType, readPos := 0, bytesToRead := 1,
               rxReq := some ⟨0, 1⟩, history := s.history ++ [.drvOpen, .readReq 0 1, .returnInt 0] } := by
  rw [execOpen, ifAdmitted_of ha, if_neg (ne_true_of_eq_false ho), if_neg (ne_false_of_eq_true hc), if_neg (not_not.2 rfl)]
  simp [issueRead, resetFramer, clearGate, emit]

theorem execClose_of_closed (ha : s.params.admitted = true) (ho : s.opened = false) :
    execClose rc s = .refused .closeWhileClosed := by
  rw [execClose, ifAdmitted_of ha, if_pos ho]

/-- The elements CLOSE writes, and that it writes no other. -/
theorem execClose_of_open (ha : s.params.admitted = true) (ho : s.opened = true) :
    execClose rc s = .next
      { s with opened := false, writeGate := false, rxReq := none, txReq := none,
               history := s.history ++ [.drvClose, .returnInt rc] } := by
  rw [execClose, ifAdmitted_of ha, if_neg (ne_false_of_eq_true ho)]
  simp [clearGate, emit]

theorem execSetBaudrate_of_unconfigured {r : Nat} (ha : s.params.admitted = true) (hc : s.configured = false) :
    execSetBaudrate r rc s = .refused .setBaudrateUnconfigured := by
  rw [execSetBaudrate, ifAdmitted_of ha, if_pos hc]

theorem execSetBaudrate_of_configured {r : Nat} (ha : s.params.admitted = true) (hc : s.configured = true) :
    execSetBaudrate r rc s = .next { s with history := s.history ++ [.drvSetBaudrate r, .returnInt rc] } := by
  rw [execSetBaudrate, ifAdmitted_of ha, if_neg (ne_false_of_eq_true hc), emit_emit]

end

/-! ### The lifecycle phase (R165) -/

section
variable {s : State}

theorem phase_eq_opened : s.phase = .opened ↔ s.opened = true := by
  unfold State.phase
  cases s.opened <;> cases s.configured <;> simp

theorem phase_eq_configured : s.phase = .configured ↔ s.opened = false ∧ s.configured = true := by
  unfold State.phase
  cases s.opened <;> cases s.configured <;> simp

theorem phase_eq_unconfigured : s.phase = .unconfigured ↔ s.opened = false ∧ s.configured = false := by
  unfold State.phase
  cases s.opened <;> cases s.configured <;> simp

/-- A stimulus that only the open phase admits meets a closed transport in every other phase. -/
theorem closed_of_phase_ne_opened (h : decide (s.phase = .opened) = false) : s.opened = false := by
  simpa [phase_eq_opened] using h

end

/-! ### Outside its phases (R165; log entry 9) -/

section
variable {i : Instr} {s : State}

/-- A driver's stimulus is a receive instruction or TX_DONE. -/
theorem callerOf_eq_driver : callerOf i = .driver ↔ isReceive i = true ∨ i = .txDone := by
  cases i <;> simp [callerOf, isReceive]

/-- The open phase is the only one that admits a driver's stimulus. -/
theorem closed_of_driver_not_admitted (hi : callerOf i = .driver) (h : admittedIn i s.phase = false) :
    s.opened = false := by
  cases i <;> simp only [callerOf, reduceCtorEq] at hi <;> exact closed_of_phase_ne_opened h

/-- A receive instruction is a tag's arrival or RX_DONE in a frame state. -/
theorem arrival_or_rxRow (hi : isReceive i = true) (s : State) :
    (∃ b k, exec i s = tagArrives b k s) ∨ ∃ fs d, i = rxRow fs d := by
  cases i <;> simp only [isReceive, Bool.false_eq_true] at hi
  case pktEvent => exact .inl ⟨_, _, rfl⟩
  case pktAcl => exact .inl ⟨_, _, rfl⟩
  case pktSco => exact .inl ⟨_, _, rfl⟩
  case pktInvalid b => exact .inl ⟨_, _, rfl⟩
  case rxDoneType d => exact .inr ⟨.awaitingType, d, rfl⟩
  case rxDoneEvtHdr d => exact .inr ⟨.awaitingEventHeader, d, rfl⟩
  case rxDoneAclHdr d => exact .inr ⟨.awaitingAclHeader, d, rfl⟩
  case rxDoneScoHdr d => exact .inr ⟨.awaitingScoHeader, d, rfl⟩
  case rxDonePayload d => exact .inr ⟨.awaitingPayload, d, rfl⟩

theorem tagArrives_of_closed {b : Byte} {k : State → State} (ha : s.params.admitted = true) (ho : s.opened = false) :
    ∃ f, tagArrives b k s = .fault f := by
  by_cases hr : s.rxReq = some ⟨0, 1⟩
  · exact ⟨_, (tagArrives_of ha hr).trans (rxDone_of_error ha (acceptBlock_of_closed ho))⟩
  · exact ⟨_, tagArrives_of_no_tagRead ha hr⟩

theorem exec_of_driver_closed (hi : callerOf i = .driver) (ha : s.params.admitted = true) (ho : s.opened = false) :
    ∃ f, exec i s = .fault f := by
  obtain hrx | rfl := callerOf_eq_driver.1 hi
  · obtain ⟨b, k, harrival⟩ | ⟨fs, d, rfl⟩ := arrival_or_rxRow hrx s
    · rw [harrival]
      exact tagArrives_of_closed ha ho
    · rw [exec_rxRow]
      exact ⟨_, rxDone_of_error ha (acceptBlock_of_closed ho)⟩
  · exact ⟨_, execTxDone_of_closed ha ho⟩

/-- P1 is tested before P2, so the name of the refusal depends on the gate. -/
theorem execSendPacket_refused_of_closed {ty : Byte} {p n : Nat} (ha : s.params.admitted = true) (ho : s.opened = false) :
    ∃ r, execSendPacket ty p n s = .refused r := by
  cases hgate : s.writeGate with
  | true => exact ⟨_, execSendPacket_of_transmitting ha hgate⟩
  | false => exact ⟨_, execSendPacket_of_closed ha hgate ho⟩

theorem execOpen_refused_of_phase {rc : Int} (ha : s.params.admitted = true) (h : s.phase ≠ .configured) :
    ∃ r, execOpen rc s = .refused r := by
  cases hphase : s.phase with
  | unconfigured =>
    obtain ⟨ho, hc⟩ := phase_eq_unconfigured.1 hphase
    exact ⟨_, execOpen_of_unconfigured ha ho hc⟩
  | configured => exact absurd hphase h
  | opened => exact ⟨_, execOpen_of_open ha (phase_eq_opened.1 hphase)⟩

/-- Each of the consumer's stimuli is refused in a phase outside its own. -/
theorem exec_of_consumer_not_admitted (hi : callerOf i ≠ .driver) (ha : s.params.admitted = true)
    (h : admittedIn i s.phase = false) : ∃ r, exec i s = .refused r := by
  cases i <;> simp only [callerOf, ne_eq, not_true_eq_false] at hi
  case initOp cfg =>
    have ho : s.phase = .opened := by simpa [admittedIn] using h
    exact ⟨_, execInit_of_open ha (phase_eq_opened.1 ho)⟩
  case openOp rc => exact execOpen_refused_of_phase ha (of_decide_eq_false h)
  case closeOp rc => exact ⟨_, execClose_of_closed ha (closed_of_phase_ne_opened h)⟩
  case registerHandler k => exact absurd h (ne_false_of_eq_true rfl)
  case canSendNow ty => exact absurd h (ne_false_of_eq_true rfl)
  case sendPacket ty p n => exact execSendPacket_refused_of_closed ha (closed_of_phase_ne_opened h)
  case setBaudrate r rc =>
    have hu : s.phase = .unconfigured := by simpa [admittedIn] using h
    exact ⟨_, execSetBaudrate_of_unconfigured ha (phase_eq_unconfigured.1 hu).2⟩

end

end Sys2Proof.Machine
end

section
/-! PROOF. The statements about the Transport Facade and its phases (42_transport_facade.md R160 to R165). -/

namespace Sys2Proof.Machine

/-- Settles O34: a consumer's stimulus by the phases of each, a driver's by the closed transport; a receive step consumes its
read and TX_DONE its write. -/
theorem phasesAdmitTheirStimuli : Obligations.PhasesAdmitTheirStimuli := by
  intro i s hadm
  refine ⟨fun hphase hi => exec_of_consumer_not_admitted hi hadm hphase,
    fun hphase hi => exec_of_driver_closed hi hadm (closed_of_driver_not_admitted hi hphase), fun t h hi => ?_, ?_⟩
  · obtain ⟨r⟩ := exec_receiveStep hi h
    exact Option.isSome_of_eq_some r.request
  · rintro t h rfl
    obtain ⟨_, _, hwrite, _⟩ := execTxDone_next h
    exact hwrite

/-- Settles O27: the two bad configurations have one lemma, which needs only that neither is of the UART kind. -/
theorem initConfiguresOrLogs : Obligations.InitConfiguresOrLogs :=
  fun _ hadm => ⟨fun ho _ => execInit_of_uart hadm ho, fun ho => execInit_of_not_uart (cfg := .missing) hadm ho nofun,
    fun ho => execInit_of_not_uart (cfg := .wrongKind) hadm ho nofun, fun ho _ => execInit_of_open hadm ho⟩

/-- Settles O28, one lemma per answer. -/
theorem openStartsTheFramer : Obligations.OpenStartsTheFramer :=
  fun _ hadm => ⟨execOpen_of_success hadm, fun hc ho _ => execOpen_of_failure hadm hc ho,
    fun ho _ => execOpen_of_open hadm ho, fun ho hc _ => execOpen_of_unconfigured hadm ho hc⟩

/-- Settles O29: the two answers of CLOSE. -/
theorem closeVoidsTheRequests : Obligations.CloseVoidsTheRequests :=
  fun _ _ hadm => ⟨execClose_of_open hadm, execClose_of_closed hadm⟩

/-- Settles O30: beyond the configuration test the meaning has no precondition, and it writes the handler alone. -/
theorem registerReplacesTheHandler : Obligations.RegisterReplacesTheHandler :=
  fun _ hadm => ⟨fun _ => ifAdmitted_of hadm _, ifAdmitted_of hadm _⟩

/-- Settles O31: the two answers of SET_BAUDRATE. -/
theorem setBaudrateIsDelegated : Obligations.SetBaudrateIsDelegated :=
  fun _ _ _ hadm => ⟨execSetBaudrate_of_configured hadm, execSetBaudrate_of_unconfigured hadm⟩

end Sys2Proof.Machine
end

section
/-! SUPPORT. What the proofs about errors and the handler's calls (60_exceptions.md R204, R206, R208) rest on: when a step logs
a cause, when two states differ at most in the order of what is recorded, and how a call by the handler is taken. -/

namespace Sys2Proof.Machine

/-! ### Steps that log a cause (R202, R204) -/

section
variable {i : Instr} {s t : State} {c : Cause}

/-- Of the framer's endings only an error logs. -/
theorem ReceiveStep.eq_of_log (r : ReceiveStep s t) (hlog : .log c ∈ emitted s t) :
    t = { s with buf := t.buf, frameState := .awaitingType, readPos := 0, bytesToRead := 1, rxReq := some ⟨0, 1⟩,
                 history := s.history ++ [.log c, .readReq 0 1] } := by
  obtain ⟨q, d, s2, _, _, _, _, _, _, hcase, rfl⟩ := r
  cases hcase with
  | header n fs' _ _ => simp [emitted] at hlog
  | length n _ => simp [emitted] at hlog
  | cause c' _ =>
    rw [raised_eq] at hlog ⊢
    obtain rfl : c = c' := by simpa [emitted] using hlog
    rfl
  | packet _ _ =>
    rw [emitted_dispatched] at hlog
    simp at hlog

/-- Beside the receive path only an INIT with a bad configuration logs. -/
theorem exec_eq_of_log (hi : isReceive i = false) (h : exec i s = .next t) (hlog : .log c ∈ emitted s t) :
    c = .configError ∧ (i = .initOp .missing ∨ i = .initOp .wrongKind) ∧ t = emit (.log .configError) s := by
  cases i <;> simp only [isReceive, Bool.true_eq_false] at hi
  case initOp cfg =>
    obtain ⟨_, _, ⟨_, _, rfl⟩ | ⟨hcfg, rfl⟩⟩ := execInit_next h
    · simp [emitted] at hlog
    · refine ⟨by simpa [emitted] using hlog, ?_, rfl⟩
      cases cfg with
      | missing => exact .inl rfl
      | wrongKind => exact .inr rfl
      | uart k => exact absurd rfl (hcfg k)
  case openOp rc =>
    obtain ⟨_, _, _, ⟨_, rfl⟩ | ⟨_, rfl⟩⟩ := execOpen_next h
    · simp [emitted] at hlog
    · simp [emitted] at hlog
  case closeOp rc =>
    obtain ⟨_, _, rfl⟩ := execClose_next h
    simp [emitted] at hlog
  case registerHandler k =>
    obtain ⟨_, _, rfl⟩ := execRegisterHandler_next h
    simp [emitted] at hlog
  case canSendNow ty =>
    obtain ⟨_, rfl⟩ := execCanSendNow_next (ty := ty) h
    simp [emitted] at hlog
  case sendPacket ty p n =>
    obtain ⟨_, _, _, _, _, _, _, _, rfl⟩ := execSendPacket_next h
    simp [emitted, startTransmit_history] at hlog
  case setBaudrate r rc =>
    obtain ⟨_, _, rfl⟩ := execSetBaudrate_next h
    simp [emitted] at hlog
  case txDone =>
    obtain ⟨_, _, _, rfl⟩ := execTxDone_next h
    simp [emitted] at hlog

end

/-! ### States that differ in the order of their outputs only -/

/-- `s` is `t` with the recorded outputs in some other order. -/
def Reordered (s t : State) : Prop := ∃ hist, s = { t with history := hist } ∧ hist.Perm t.history

section
variable {s t u : State}

theorem Reordered.sameButHistory (h : Reordered s t) : SameButHistory s t := by
  obtain ⟨_, rfl, _⟩ := h
  rfl

theorem Reordered.history_perm (h : Reordered s t) : s.history.Perm t.history := by
  obtain ⟨_, rfl, hperm⟩ := h
  exact hperm

theorem Reordered.refl (s : State) : Reordered s s := ⟨_, rfl, .refl _⟩

theorem Reordered.symm (h : Reordered s t) : Reordered t s := by
  obtain ⟨_, rfl, hperm⟩ := h
  exact ⟨_, rfl, hperm.symm⟩

theorem Reordered.trans (h : Reordered s t) (h' : Reordered t u) : Reordered s u := by
  obtain ⟨_, rfl, hperm⟩ := h
  obtain ⟨_, rfl, hperm'⟩ := h'
  exact ⟨_, rfl, hperm.trans hperm'⟩

theorem Reordered.issueRead (h : Reordered s t) : Reordered (issueRead s) (issueRead t) := by
  obtain ⟨_, rfl, hperm⟩ := h
  exact ⟨_, rfl, hperm.append_right _⟩

/-- Two stretches of outputs recorded in either order. -/
theorem Reordered.of_swapped {hist : List Output} (outs outs' : List Output) (hs : s.history = hist ++ outs ++ outs')
    (ht : t = { s with history := hist ++ outs' ++ outs }) : Reordered s t := by
  subst ht
  refine ⟨s.history, rfl, ?_⟩
  rw [hs, List.append_assoc, List.append_assoc]
  exact List.perm_append_comm.append_left hist

end

/-! ### TX_DONE beside the receive path (R206) -/

/-- What TX_DONE does: the gate and the outstanding write are cleared, and the handler gets the sent event (R142). -/
def transmitEnded (s : State) : State :=
  dispatch tagEvent (.const [s.params.sentCode, 0x00]) 2 { clearGate s with txReq := none }

section
variable {fs : FrameState} {s s2 t : State}

theorem execTxDone_eq_next :
    execTxDone s = .next t ↔
      s.params.admitted = true ∧ s.opened = true ∧ s.txReq.isSome = true ∧ t = transmitEnded s := by
  refine ⟨execTxDone_next, ?_⟩
  rintro ⟨hadm, ho, hwrite, rfl⟩
  exact execTxDone_of_write hadm ho (Option.isSome_iff_ne_none.1 hwrite)

theorem transmitEnded_issueRead (s : State) : Reordered (issueRead (transmitEnded s)) (transmitEnded (issueRead s)) :=
  .of_swapped (hist := s.history) [_] [_] rfl rfl

theorem transmitEnded_raiseCause (c : Cause) (s : State) :
    Reordered (raiseCause c (transmitEnded s)) (transmitEnded (raiseCause c s)) :=
  .of_swapped (hist := s.history) [_] [_] rfl rfl

@[simp] theorem transmitEnded_params (s : State) : (transmitEnded s).params = s.params := rfl

@[simp] theorem transmitEnded_logical (s : State) (i : Nat) : (transmitEnded s).logical i = s.logical i := rfl

theorem transmitEnded_typeCase (s : State) : Reordered (typeCase (transmitEnded s)) (transmitEnded (typeCase s)) := by
  unfold typeCase
  rw [transmitEnded_params, transmitEnded_logical]
  cases tagKind s.params (s.logical 0) with
  | event => exact .refl _
  | acl => exact .refl _
  | sco => exact .refl _
  | invalid => exact transmitEnded_raiseCause _ s

theorem transmitEnded_aclCase (s : State) : Reordered (aclCase (transmitEnded s)) (transmitEnded (aclCase s)) := by
  by_cases hfit : hdrAcl + aclLen s ≤ s.params.mps
  · rw [aclCase_of_fits hfit, aclCase_of_fits (s := transmitEnded s) hfit]
    exact .refl _
  · rw [aclCase_of_exceeds (not_le.1 hfit), aclCase_of_exceeds (s := transmitEnded s) (not_le.1 hfit)]
    exact transmitEnded_raiseCause _ s

/-- The two calls of the handler come in either order; each leaves it the turn. -/
theorem payloadCase_transmitEnded (h : payloadCase s = .ok s2) :
    ∃ s2', payloadCase (transmitEnded s) = .ok s2' ∧ Reordered s2' (transmitEnded s2) := by
  obtain ⟨hfit, rfl⟩ := payloadCase_ok h
  have hbytes : (transmitEnded s).bytesAt (s.phys 1) (s.readPos - 1) = s.bytesAt (s.phys 1) (s.readPos - 1) :=
    bytesAt_congr _ _ fun _ _ _ => rfl
  refine ⟨_, payloadCase_of (s := transmitEnded s) hfit, ?_⟩
  exact .of_swapped (hist := s.history) [_] [.dispatch s.handler (s.logical 0)
    (.inBuf (s.phys 1) (s.bytesAt (s.phys 1) (s.readPos - 1))) (s.readPos - 1)] (by rw [← hbytes]; rfl) rfl

/-- No case of the framer reads or writes the gate or the outstanding write. -/
theorem rxBody_transmitEnded (h : rxBody fs s = .ok s2) :
    ∃ s2', rxBody fs (transmitEnded s) = .ok s2' ∧ Reordered s2' (transmitEnded s2) := by
  cases fs with
  | awaitingType => cases h; exact ⟨_, rfl, transmitEnded_typeCase s⟩
  | awaitingEventHeader => cases h; exact ⟨_, rfl, .refl _⟩
  | awaitingAclHeader => cases h; exact ⟨_, rfl, transmitEnded_aclCase s⟩
  | awaitingScoHeader => cases h; exact ⟨_, rfl, .refl _⟩
  | awaitingPayload => exact payloadCase_transmitEnded h

theorem exec_rxRow_transmitEnded {d : List Byte} {a : State} (h : exec (rxRow fs d) s = .next a) :
    ∃ a', exec (rxRow fs d) (transmitEnded s) = .next a' ∧ Reordered a' (transmitEnded a) := by
  rw [exec_rxRow] at h
  obtain ⟨_, s2, hadm, haccept, hbody, rfl⟩ := rxDone_next h
  obtain ⟨q, ho, hr, hl, hz, hf, hrange, rfl⟩ := acceptBlock_ok haccept
  obtain ⟨s2', hbody', hreordered⟩ := rxBody_transmitEnded hbody
  refine ⟨issueRead s2', ?_, hreordered.issueRead.trans (transmitEnded_issueRead s2)⟩
  rw [exec_rxRow]
  exact rxDone_of hadm (acceptBlock_of (s := transmitEnded s) ho hr hl hz hf hrange) hbody'

end

/-! ### A call by the handler and the rest of the receive step (R208) -/

section
variable {s t : State}

/-- What is left of RX_DONE.PAYLOAD after the dispatch (R117, R112). -/
def restOfReceive (s : State) : State := issueRead (resetFramer s)

theorem restOfReceive_emit (o : Output) (s : State) :
    Reordered (emit o (restOfReceive s)) (restOfReceive (emit o s)) :=
  .of_swapped (hist := s.history) [.readReq 0 1] [o] rfl rfl

theorem restOfReceive_startTransmit {p : Nat} (hp : 1 ≤ p) (ty : Byte) (n : Nat) (s : State) :
    Reordered (startTransmit ty p n (restOfReceive s)) (restOfReceive (startTransmit ty p n s)) := by
  have hbytes : (restOfReceive s).bytesAt p n = s.bytesAt p n := bytesAt_congr _ _ fun _ _ _ => rfl
  rw [startTransmit_eq _ ty n hp, startTransmit_eq s ty n hp, hbytes]
  exact .of_swapped (hist := s.history) [.readReq 0 1] [.writeReq (p - 1) (n + 1), .returnInt 0] rfl rfl

/-- A send window that clears a non-empty RX window lies in the pre-buffer, which no RX window meets. -/
theorem exec_sendPacket_restOfReceive {ty : Byte} {p n : Nat} (hrx : 1 ≤ s.readPos + s.bytesToRead)
    (h : exec (.sendPacket ty p n) s = .next t) :
    ∃ u, exec (.sendPacket ty p n) (restOfReceive s) = .next u ∧ Reordered u (restOfReceive t) := by
  obtain ⟨hadm, hgate, ho, hp, hpb, hmps, hcap, hfree, rfl⟩ := execSendPacket_next h
  have hend : p + n ≤ s.params.pb := by
    by_contra hover
    simp [sendWindow_meets_rxWindow ho hpb (not_le.1 hover) hrx] at hfree
  have hready := execSendPacket_of_ready (s := restOfReceive s) (ty := ty) hadm hgate ho ⟨hp, hpb⟩ ⟨hmps, hcap⟩
  exact ⟨_, hready.trans (if_neg (sendWindow_not_meets_rxWindow (s := restOfReceive s) ho hend)),
    restOfReceive_startTransmit hp ty n s⟩

/-- A call that the handler may make can be made after the rest of the step. -/
theorem exec_restOfReceive {i : Instr} (hi : callerOf i = .reentrant) (hrx : 1 ≤ s.readPos + s.bytesToRead)
    (h : exec i s = .next t) : ∃ u, exec i (restOfReceive s) = .next u ∧ Reordered u (restOfReceive t) := by
  cases i <;> simp only [callerOf, reduceCtorEq] at hi
  case registerHandler k =>
    obtain ⟨hadm, h⟩ := ifAdmitted_next h
    cases h
    exact ⟨_, ifAdmitted_of hadm _, .refl _⟩
  case canSendNow ty =>
    obtain ⟨hadm, rfl⟩ := execCanSendNow_next (ty := ty) h
    exact ⟨_, ifAdmitted_of hadm _, restOfReceive_emit _ s⟩
  case sendPacket ty p n => exact exec_sendPacket_restOfReceive hrx h

end

/-! ### Taking a call by the handler (R208; log entry 13) -/

section
variable {i : Instr} {s : State} {op : BitVec 4} {x : Operand} {rest : List Input}

theorem acceptInput_of_fromHandler (hin : s.inputs = .fromHandler op x :: rest)
    (hd : decode s.params (presented op x s) = .ok i) :
    acceptInput s = acceptFromHandler i { s with inputs := rest } := by
  simp only [acceptInput, hin, hd]

theorem acceptFromHandler_of_driver (hi : callerOf i = .driver) :
    acceptFromHandler i s = .fault .driverEventDuringCall := by
  rw [acceptFromHandler, hi]

theorem acceptFromHandler_of_reentrant (hi : callerOf i = .reentrant) (hw : s.handlerWindow = true) :
    acceptFromHandler i s = .instr i s := by
  rw [acceptFromHandler, hi]
  exact if_pos hw

theorem acceptFromHandler_of_lifecycle (hi : callerOf i = .lifecycle) (hw : s.handlerWindow = true) :
    acceptFromHandler i s = .refused .lifecycleCallFromHandler := by
  rw [acceptFromHandler, hi]
  exact if_pos hw

theorem acceptFromHandler_of_no_turn (hi : callerOf i ≠ .driver) (hw : s.handlerWindow = false) :
    acceptFromHandler i s = .fault .noHandlerRunning := by
  rw [acceptFromHandler]
  cases hc : callerOf i with
  | driver => exact absurd hc hi
  | lifecycle => exact if_neg (ne_true_of_eq_false hw)
  | reentrant => exact if_neg (ne_true_of_eq_false hw)

end

end Sys2Proof.Machine
end

section
/-! PROOF. The statements about errors and the handler's calls (60_exceptions.md R204, R206, R208). -/

namespace Sys2Proof.Machine

/-- Settles O21: on the receive path the step ended in an error, and elsewhere it is an INIT with a bad configuration. -/
theorem errorEntryLogsAndResets : Obligations.ErrorEntryLogsAndResets := by
  intro i s t c h hlog
  by_cases hi : isReceive i = true
  · obtain ⟨r⟩ := exec_receiveStep hi h
    exact .inl ⟨hi, r.eq_of_log hlog⟩
  · exact .inr (exec_eq_of_log (by simpa using hi) h hlog)

/-- Settles O47: TX_DONE is `transmitEnded` wherever its write is outstanding; the receive step keeps that write, and runs
after it as before it. -/
theorem receiveAndTransmitDoneCommute : Obligations.ReceiveAndTransmitDoneCommute := by
  intro fs d s a b hrx htx
  obtain ⟨hadm, _, hwrite, rfl⟩ := execTxDone_eq_next.1 htx
  obtain ⟨a', hrx', hreordered⟩ := exec_rxRow_transmitEnded hrx
  obtain ⟨r⟩ := exec_receiveStep (isReceive_rxRow fs d) hrx
  have hopen : a.opened = true := (congrArg State.opened r.sameButFramer).trans r.opened
  have hkept : a.txReq = s.txReq := (congrArg State.txReq r.sameButFramer :)
  have htx' : execTxDone a = .next (transmitEnded a) :=
    execTxDone_eq_next.2 ⟨r.params_eq ▸ hadm, hopen, hkept ▸ hwrite, rfl⟩
  exact ⟨_, a', htx', hrx', hreordered.symm.sameButHistory, hreordered.symm.history_perm⟩

/-- Settles O48: the call made after the rest of the step records the same outputs in another order. -/
theorem handlerCallsMayFollowTheStep : Obligations.HandlerCallsMayFollowTheStep := by
  intro i m m' hi hrx h
  obtain ⟨t, ht, hreordered⟩ := exec_restOfReceive hi hrx h
  exact ⟨t, ht, hreordered.sameButHistory, hreordered.history_perm⟩

/-- Settles O8: each clause is an answer to the handler's call. -/
theorem callsFromInsideTheHandler : Obligations.CallsFromInsideTheHandler := by
  intro s op x rest i hin hd
  have haccept := acceptInput_of_fromHandler hin hd
  simp only [step, haccept]
  refine ⟨fun hw hi => ?_, fun hw hi => ?_, fun hi => ?_, fun hw hi => ?_⟩
  · rw [acceptFromHandler_of_reentrant (s := { s with inputs := rest }) hi hw]
  · rw [acceptFromHandler_of_lifecycle (s := { s with inputs := rest }) hi hw]
  · rw [acceptFromHandler_of_driver hi]
  · rw [acceptFromHandler_of_no_turn (s := { s with inputs := rest }) hi hw]

end Sys2Proof.Machine
end

section
/-! PROOF. The statement about recovery by closing and opening again (70_reset_and_hazards.md R231). -/

namespace Sys2Proof.Machine

/-- Settles O32: an open transport is configured (I4), so the OPEN meets a closed, configured one; neither call writes the
buffer, the handler or the configuration. -/
theorem closeThenOpenRecovers : Obligations.CloseThenOpenRecovers := by
  intro s rc hs hopen
  have hconf : s.configured = true := hs.openedConfigured hopen
  refine ⟨_, _, execClose_of_open hs.admitted hopen, execOpen_of_success hs.admitted hconf rfl, ?idle, ?kept⟩
  case idle => exact ⟨rfl, rfl, rfl, rfl, rfl⟩
  case kept => exact ⟨rfl, rfl, rfl, rfl, rfl, hconf⟩

end Sys2Proof.Machine
end
